-- ==== Sys2Proof/Word.lean ====
section
/-! DEFINITION. The number types of the machine: bytes, words, nibbles and register indexes
(spec/00_scope.md R10, R11; spec/10_state.md R21). -/

namespace Sys2Proof

/-- An 8-bit unsigned value: a memory byte, a general register, a timer (R21, R33, R61). -/
abbrev Byte := BitVec 8

/-- A 16-bit value: an instruction word, the pc, the index register, a return address (R24, R26, R29, R90). -/
abbrev Word := BitVec 16

/-- A 4-bit field of an instruction word (R14 "Nibble", R91). -/
abbrev Nibble := BitVec 4

/-- A 12-bit immediate address, the field nnn (R91, R92). -/
abbrev Addr12 := BitVec 12

/-- The index of a general register, V0 to VF: always at most 0xF (R21, R93). -/
abbrev Reg := Fin 16

/-- The register that is also the flag (R23). -/
abbrev regF : Reg := 15

end Sys2Proof
end

