-- ==== Sys2Proof/Config.lean ====
section
/-! DEFINITION. What is fixed for the machine, and the free values. The parameters are those of
spec/00_scope.md R9. The values of the two open parameters FONT and FX1E_VF_POLICY stand in
Machine/Params.lean. The opaque constants have no body: nothing is known of them, so a claim about them holds
for every value (log 20, log 21). -/

namespace Sys2Proof

/-- MEM_SIZE, 4096 bytes (R9, R60, D1; log 6). -/
abbrev Config.memSize : Nat := 0x1000

/-- LOAD_ADDR, where programs are loaded and where the pc starts (R9, R26, R322). -/
abbrev Config.loadAddr : Nat := 0x200

/-- FONT_BASE (R9, R67). -/
abbrev Config.fontBase : Nat := 0x000

/-- GLYPH_BYTES, the bytes of one glyph (R9, R67). -/
abbrev Config.glyphBytes : Nat := 5

/-- FONT_SIZE, the bytes of the font region (R9, R66). -/
abbrev Config.fontSize : Nat := 80

/-- The values of the parameter FONT: any 80 bytes (R9, R321). Construction takes one as its argument
(`State.construct`). -/
abbrev Font := Vector Byte Config.fontSize

/-- STACK_DEPTH, the entries of the call stack (R9, R29, D2; log 6). -/
abbrev Config.stackDepth : Nat := 16

/-- NUM_KEYS (R9, R35). -/
abbrev Config.numKeys : Nat := 16

/-- FB_W, the columns of the framebuffer (R9, R37). -/
abbrev Config.fbW : Nat := 64

/-- FB_H, the rows of the framebuffer (R9, R37). -/
abbrev Config.fbH : Nat := 32

/-- The values of the parameter FX1E_VF_POLICY (R9, R211, D10; log 14). -/
inductive Fx1ePolicy where
  /-- VF becomes 1 on overflow past 0xFFF and 0 otherwise -/
  | setOrClear
  /-- VF becomes 1 on overflow and is left alone otherwise -/
  | setOnly
  /-- VF is not written -/
  | none
  deriving DecidableEq, Repr

/-- FREE VALUE (log 21): the key vector the host gives the tick of this number, where `State.inputs` does not
already say it. Any 16 booleans (R7, R121 and R122). -/
opaque Config.keysIn : Nat → Vector Bool 16

/-- FREE VALUE (log 21): the random byte of the tick of this number, where `State.inputs` does not already say
it. "any value 0..255 under no law" (R121, D17). -/
opaque Config.rndIn : Nat → Byte

/-- FREE VALUE (log 20): whether the key snapshot of a faulting tick stays in the state (R133, D16). -/
opaque Config.faultKeepsKeys : Nat → Bool

/-- FREE VALUE (log 20): whether the clearing of `changed` by a faulting tick stays (R133, D16). -/
opaque Config.faultKeepsChanged : Nat → Bool

/-- FREE VALUE (log 20): whether the timer countdown of a faulting tick stays (R133, D16). -/
opaque Config.faultKeepsTimers : Nat → Bool

end Sys2Proof
end

