-- ==== Sys2Proof/Machine/Framebuffer.lean ====
section
/-! DEFINITION. The framebuffer grid (spec/10_state.md R37, spec/45_display.md R260): 32 rows of 64 cells,
`fb[Y][X]`, each cell 0 (false) or 1 (true). -/

namespace Sys2Proof.Machine

/-- The grid: entry Y is row Y, whose entry X is the cell at column X (R37). -/
abbrev Framebuffer := Vector (Vector Bool Config.fbW) Config.fbH

/-- Every cell 0. -/
def Framebuffer.blank : Framebuffer := Vector.replicate Config.fbH (Vector.replicate Config.fbW false)

/-- The column of a horizontal coordinate: modulo the width (R260). -/
def columnOf (n : Nat) : Fin Config.fbW := ⟨n % Config.fbW, Nat.mod_lt n (by decide)⟩

/-- The row of a vertical coordinate: modulo the height (R260). -/
def rowOf (n : Nat) : Fin Config.fbH := ⟨n % Config.fbH, Nat.mod_lt n (by decide)⟩

/-- The cell `fb[Y][X]` (R260). -/
def Framebuffer.cell (fb : Framebuffer) (Y : Fin Config.fbH) (X : Fin Config.fbW) : Bool := fb[Y][X]

/-- `fb[Y][X] <- fb[Y][X] ^ 1` (R262). -/
def Framebuffer.flip (fb : Framebuffer) (Y : Fin Config.fbH) (X : Fin Config.fbW) : Framebuffer :=
  fb.set Y (fb[Y].set X (!fb[Y][X]))

end Sys2Proof.Machine
end

