-- ==== Sys2Proof/Machine/Params.lean ====
section
/-! DEFINITION. The defaults of the two parameters that the spec leaves to the implementation: FONT
(spec/70_reset_and_hazards.md R321), which `State.construct` takes as an argument, and FX1E_VF_POLICY
(spec/43_index_memory.md R211), which `State.addIndex` takes as an argument. -/

namespace Sys2Proof.Machine

/-- The bytes of the default FONT: 16 glyphs of 5 bytes, glyph d at 5*d. PRESUMED (log 1): the default table of
R321, which the spec marks as general knowledge (G1). -/
def font : List Byte :=
  [0xF0, 0x90, 0x90, 0x90, 0xF0] ++ [0x20, 0x60, 0x20, 0x20, 0x70] ++
  [0xF0, 0x10, 0xF0, 0x80, 0xF0] ++ [0xF0, 0x10, 0xF0, 0x10, 0xF0] ++
  [0x90, 0x90, 0xF0, 0x10, 0x10] ++ [0xF0, 0x80, 0xF0, 0x10, 0xF0] ++
  [0xF0, 0x80, 0xF0, 0x90, 0xF0] ++ [0xF0, 0x10, 0x20, 0x40, 0x40] ++
  [0xF0, 0x90, 0xF0, 0x90, 0xF0] ++ [0xF0, 0x90, 0xF0, 0x10, 0xF0] ++
  [0xF0, 0x90, 0xF0, 0x90, 0x90] ++ [0xE0, 0x90, 0xE0, 0x90, 0xE0] ++
  [0xF0, 0x80, 0x80, 0x80, 0xF0] ++ [0xE0, 0x90, 0x90, 0x90, 0xE0] ++
  [0xF0, 0x80, 0xF0, 0x80, 0xF0] ++ [0xF0, 0x80, 0xF0, 0x80, 0x80]

/-- The default value of the parameter FONT, which `State.reset` is constructed with (R321; log 1). -/
def defaultFont : Font := ⟨font.toArray, by decide⟩

/-- FX1E_VF_POLICY, at the spec's default set_or_clear. DEDUCED (log 14): the spec's own decision D10. -/
def fx1ePolicy : Fx1ePolicy := .setOrClear

end Sys2Proof.Machine
end

