-- ==== Sys2Proof/Machine/Memory.lean ====
section
/-! DEFINITION. Memory as data: a list of (address, byte) pairs in one canonical form (log 30), its contents
after construction (spec/10_state.md R43), and reading and writing one byte. The range check and the
read-only font region of spec/20_memory.md R63 to R66 stand in Machine/Ops.lean. -/

namespace Sys2Proof.Machine

/-- The bytes that differ from what construction leaves, by address. -/
abbrev Memory := List Host.Cell

/-- The first address past the font region (R66, R67). -/
abbrev fontEnd : Nat := Config.fontBase + Config.fontSize

/-- What construction with the default FONT leaves at an address: FONT in the font region, 0 elsewhere (R43, R320).
This is what an unlisted address reads as, so a block constructed with another FONT lists the bytes that differ
(log 30). -/
def Memory.initial (a : Nat) : Byte := font.getD (a - Config.fontBase) 0

/-- The byte at an address. -/
def Memory.read : Memory → Nat → Byte
  | [], a => Memory.initial a
  | (k, b) :: m, a => if k = a then b else Memory.read m a

/-- The list without the entries of an address. -/
def Memory.erase (m : Memory) (a : Nat) : Memory := m.filter (fun c => c.1 != a)

/-- The entry put before the first entry of a higher address. -/
def Memory.insert : Memory → Nat → Byte → Memory
  | [], a, b => [(a, b)]
  | (k, v) :: m, a, b => if a < k then (a, b) :: (k, v) :: m else (k, v) :: Memory.insert m a b

/-- The byte at an address replaced. A byte equal to what an unlisted address reads as leaves no entry. -/
def Memory.write (m : Memory) (a : Nat) (b : Byte) : Memory :=
  if b = Memory.initial a then Memory.erase m a else Memory.insert (Memory.erase m a) a b

/-- Bytes written at consecutive addresses, the first at the lowest (R65). -/
def Memory.writeList : Memory → Nat → List Byte → Memory
  | m, _, [] => m
  | m, a, b :: bs => Memory.writeList (Memory.write m a b) (a + 1) bs

/-- The canonical form: addresses strictly rising, every address in the address space (R60), and no entry
equal to what an unlisted address reads as. -/
abbrev Memory.wf (m : Memory) : Prop :=
  m.Pairwise (fun c d => c.1 < d.1) ∧ ∀ c ∈ m, c.1 < Config.memSize ∧ c.2 ≠ Memory.initial c.1

end Sys2Proof.Machine
end

