-- ==== Sys2Proof/Machine/State.lean ====
section
/-! DEFINITION. The state of the block (spec/10_state.md R20), its faults (spec/60_exceptions.md), and the state
after construction (R43). State is plain data. -/

namespace Sys2Proof.Machine

/-- The kinds of fault, with the spec's own codes 1 to 7 (R288, D22; log 32). -/
inductive FaultKind where
  | unsupportedOpcode
  | stackOverflow
  | stackUnderflow
  | addressOutOfRange
  | protectedWrite
  | keyIndexOutOfRange
  | loadTooLarge
  deriving DecidableEq, Repr

/-- The spec's numbering of the kinds (R288). -/
def FaultKind.code : FaultKind → Nat
  | .unsupportedOpcode => 1
  | .stackOverflow => 2
  | .stackUnderflow => 3
  | .addressOutOfRange => 4
  | .protectedWrite => 5
  | .keyIndexOutOfRange => 6
  | .loadTooLarge => 7

/-- A fault report (kind, word, pc, addr); `word` is absent for a fetch fault, and `addr` for kinds that have
no address (R280). -/
structure Report where
  kind : FaultKind
  word : Option Word
  pc : Word
  addr : Option Nat
  deriving DecidableEq, Repr

/-- Why a step stops. Every fault of the block is fatal (R280). -/
inductive Fault where
  /-- Raised at decode by a word that matches no row of the opcode map (R281). Safe: the spec's own fault. -/
  | unsupportedOpcode (word pc : Word)
  /-- Raised by CALL when the stack is full (R282). Safe: the spec's own fault. -/
  | stackOverflow (word pc : Word)
  /-- Raised by RET when the stack is empty (R283). Safe: the spec's own fault. -/
  | stackUnderflow (word pc : Word)
  /-- Raised by the fetch (with no word) and by DRW, LD B, LD [I] and LD Vx,[I] when an address is 4096 or more;
  `addr` is the first such address (R284). Safe: it stops where an implementation might wrap (log 8, log 9). -/
  | addressOutOfRange (word : Option Word) (pc : Word) (addr : Nat)
  /-- Raised by LD B and LD [I] when they would write the font region (R285). Safe: it stops where an
  implementation might write (log 10). -/
  | protectedWrite (word pc : Word) (addr : Nat)
  /-- Raised by SKP and SKNP when Vx is no key number (R286). Safe: it stops where an implementation might mask
  the number (log 12). -/
  | keyIndexOutOfRange (word pc : Word)
  /-- Raised by the program load, never by a tick, when the program does not fit (R287, R322). Safe: the spec's
  own error. -/
  | loadTooLarge
  /-- Raised by the step of a block that has a fault recorded: it accepts no tick (R134). Safe: the machine has
  stopped (log 33). -/
  | noTick
  deriving DecidableEq, Repr

/-- The report of a fault (R288); the load error has no report fields, and a block that takes no tick reports
nothing. -/
def Fault.report : Fault → Option Report
  | .unsupportedOpcode w p => some ⟨.unsupportedOpcode, some w, p, none⟩
  | .stackOverflow w p => some ⟨.stackOverflow, some w, p, none⟩
  | .stackUnderflow w p => some ⟨.stackUnderflow, some w, p, none⟩
  | .addressOutOfRange w p a => some ⟨.addressOutOfRange, w, p, some a⟩
  | .protectedWrite w p a => some ⟨.protectedWrite, some w, p, some a⟩
  | .keyIndexOutOfRange w p => some ⟨.keyIndexOutOfRange, some w, p, none⟩
  | .loadTooLarge => none
  | .noTick => none

/-- Why an instruction has no meaning. No arm of `exec` answers so: every row of the opcode map is modelled. -/
inductive Refusal where
  /-- Raised by an arm of `exec` whose instruction has no meaning yet. Safe: the model stops. -/
  | notModelled (mnemonic : String)
  deriving DecidableEq, Repr

/-- What the host gives one tick: the key vector and the random byte (R7, R121). -/
structure TickInput where
  keys : Vector Bool Config.numKeys
  rnd : Byte
  deriving DecidableEq, Repr

/-- The state of the block (R20) under the spec's names, and after it the three fields of the model's own that
carry the inputs of the ticks (log 21). -/
structure State where
  /-- 4096 bytes (R60, R61) -/
  mem : Memory
  /-- V0 to VF (R21) -/
  V : Vector Byte 16
  /-- the index register, 0x000 to 0xFFF (R24, R25) -/
  I : Word
  /-- the program counter (R26) -/
  pc : Word
  /-- how many entries of the call stack are in use, 0 to 16 (R30) -/
  sp : Fin (Config.stackDepth + 1)
  /-- return addresses (R29) -/
  stack : Vector Word Config.stackDepth
  /-- the delay timer (R33) -/
  DT : Byte
  /-- the sound timer (R34) -/
  ST : Byte
  /-- the key snapshot of the current tick: entry i is "key i currently held" (R35) -/
  keys : Vector Bool Config.numKeys
  /-- the keyboard-wait latch is set (R36) -/
  wait : Bool
  /-- the register the latch will write (R36) -/
  waitReg : Reg
  /-- the framebuffer (R37) -/
  fb : Framebuffer
  /-- the current tick executed a clear or a draw (R39, R123) -/
  changed : Bool
  /-- the first fatal fault's report (R41) -/
  fault : Option Report
  /-- the model's own: the random byte of the current tick (R121) -/
  rnd : Byte
  /-- the model's own: inputs of coming ticks that are already decided, oldest first (R7) -/
  inputs : List TickInput
  /-- the model's own: how many ticks were taken, the index of the free inputs -/
  ticks : Nat
  deriving DecidableEq, Repr

/-- The block after construction with the default FONT and before program load (R43, R320): `State.construct defaultFont`,
for its memory then lists nothing (`construct_defaultFont` in Laws/Memory.lean). I, keys, wait, waitReg, fb and changed are
the spec's decision D15 (log 19); the model's own fields are DESIGN CHOICE (log 31). -/
def State.reset : State where
  mem := []
  V := Vector.replicate 16 0
  I := 0
  pc := BitVec.ofNat 16 Config.loadAddr
  sp := 0
  stack := Vector.replicate Config.stackDepth 0
  DT := 0
  ST := 0
  keys := Vector.replicate Config.numKeys false
  wait := false
  waitReg := 0
  fb := Framebuffer.blank
  changed := false
  fault := none
  rnd := 0
  inputs := []
  ticks := 0

/-- What a meaning answers: a next state, a fault or a refusal. -/
abbrev Answer := Host.Outcome State Fault Refusal

end Sys2Proof.Machine
end

