-- ==== Sys2Proof/Machine/Flags.lean ====
section
/-! DEFINITION. The flag computations: what VF receives (spec/10_state.md R23, spec/42_alu.md R180). VF is the only
flag, and as a flag it is always 0 or 1. -/

namespace Sys2Proof.Machine

/-- A flag as the byte written to VF (R23). -/
def flagByte (f : Bool) : Byte := if f then 1 else 0

/-- The carry of an addition: the exact sum is past 255 (R180, R188). -/
def carry (a b : Byte) : Bool := 255 < a.toNat + b.toNat

/-- NOT borrow of a - b: a >= b (R180, R189, R191). -/
def notBorrow (a b : Byte) : Bool := b.toNat ≤ a.toNat

/-- The bit a right shift by one moves out: bit 0 (R190). -/
def shiftedOutRight (a : Byte) : Bool := a.getLsbD 0

/-- The bit a left shift by one moves out: bit 7 (R192). -/
def shiftedOutLeft (a : Byte) : Bool := a.getLsbD 7

/-- The exact sum of Fx1E is past 0xFFF (R211). -/
def indexOverflow (sum : Nat) : Bool := 0xFFF < sum

/-- What VF receives from Fx1E under a policy; none where VF is not written (R211, D10). -/
def indexFlag : Fx1ePolicy → Nat → Option Byte
  | .setOrClear, sum => some (flagByte (indexOverflow sum))
  | .setOnly, sum => if indexOverflow sum then some 1 else none
  | .none, _ => none

end Sys2Proof.Machine
end

