-- ==== Sys2Proof/Machine/Ops.lean ====
section
/-! DEFINITION. The named operations over the state: registers, program counter, stack, memory, timers, the key
latch, program load, and the recording of a fault. -/

namespace Sys2Proof.Machine

/-! ## Registers (R12, R21) -/

/-- Read V[r]. -/
def State.v (s : State) (r : Reg) : Byte := s.V[r]

/-- V[r] <- b. -/
def State.setV (s : State) (r : Reg) (b : Byte) : State := { s with V := s.V.set r b }

/-- The result to V[x], then the flag to VF: so VF holds the flag when x is F (R181, D8; log 16). -/
def State.setVFlag (s : State) (x : Reg) (result : Byte) (flag : Bool) : State :=
  (s.setV x result).setV regF (flagByte flag)

/-- VF written where there is a value for it. -/
def State.setVFlag? (s : State) : Option Byte → State
  | some b => s.setV regF b
  | none => s

/-- Consecutive registers from V[k] on receive the bytes (R215). -/
def State.loadRegs (s : State) : Nat → List Byte → State
  | _, [] => s
  | k, b :: bs => (if h : k < 16 then s.setV ⟨k, h⟩ b else s).loadRegs (k + 1) bs

/-- I <- w. -/
def State.setI (s : State) (w : Word) : State := { s with I := w }

/-! ## Program counter (R27, R135) -/

/-- pc <- w. -/
def State.setPc (s : State) (w : Word) : State := { s with pc := w }

/-- pc <- p + 2, the next instruction. -/
def State.advance (s : State) : State := s.setPc (s.pc + 2)

/-- pc <- p + 4 where the condition holds, else p + 2 (R27, R14 "Skip"). -/
def State.skipIf (s : State) (c : Bool) : State := s.setPc (if c then s.pc + 4 else s.pc + 2)

/-! ## Call stack (R29 to R32) -/

/-- push(v), for the instruction of the given word: StackOverflow on a full stack (R31, R282). -/
def State.push (s : State) (word v : Word) : Except Fault State :=
  if h : s.sp.val < Config.stackDepth then
    .ok { s with stack := s.stack.set s.sp.val v h, sp := ⟨s.sp.val + 1, by omega⟩ }
  else .error (.stackOverflow word s.pc)

/-- pop(), for the instruction of the given word: StackUnderflow on an empty stack, else the popped entry, which
keeps its value in the stack (R32, R283, D27; log 28). -/
def State.pop (s : State) (word : Word) : Except Fault (Word × State) :=
  if h : 0 < s.sp.val then
    .ok (s.stack[s.sp.val - 1]'(by omega), { s with sp := ⟨s.sp.val - 1, by omega⟩ })
  else .error (.stackUnderflow word s.pc)

/-! ## Memory (R63 to R66). `word` is the instruction word that a report carries, absent at fetch. -/

/-- The first address of addr .. addr+n-1 that is outside memory, if there is one (R63, R64, R65). -/
def firstOutOfRange (addr n : Nat) : Option Nat :=
  (List.range' addr n).find? (fun a => decide (Config.memSize ≤ a))

/-- MemRead(addr, n): AddressOutOfRange, or the n bytes (R64). -/
def State.memRead (s : State) (word : Option Word) (addr n : Nat) : Except Fault (List Byte) :=
  match firstOutOfRange addr n with
  | some a => .error (.addressOutOfRange word s.pc a)
  | none => .ok ((List.range' addr n).map (fun a => Memory.read s.mem a))

/-- MemWrite(addr, n, bytes): AddressOutOfRange, then ProtectedWrite, both before any byte is written (R65, R70;
log 9, log 10). -/
def State.memWrite (s : State) (word : Word) (addr : Nat) (bytes : List Byte) : Except Fault State :=
  match firstOutOfRange addr bytes.length with
  | some a => .error (.addressOutOfRange (some word) s.pc a)
  | none =>
    if bytes ≠ [] ∧ addr < fontEnd then .error (.protectedWrite word s.pc addr)
    else .ok { s with mem := Memory.writeList s.mem addr bytes }

/-- One byte for the fetch: a report without a word (R63, R284). -/
def State.fetchByte (s : State) (a : Nat) : Except Fault Byte :=
  if a < Config.memSize then .ok (Memory.read s.mem a) else .error (.addressOutOfRange none s.pc a)

/-! ## Framebuffer, timers, key latch -/

/-- The framebuffer replaced, and `changed` set, as every clear and draw does (R39, R264). -/
def State.setFb (s : State) (fb : Framebuffer) : State := { s with fb := fb, changed := true }

/-- DT <- b. -/
def State.setDT (s : State) (b : Byte) : State := { s with DT := b }

/-- ST <- b. -/
def State.setST (s : State) (b : Byte) : State := { s with ST := b }

/-- One tick of a timer: down by one, and not below 0 (R33, R127). -/
def countDown (t : Byte) : Byte := if 0 < t.toNat then t - 1 else 0

/-- The countdown of both timers on an execute tick (R127). -/
def State.countDownTimers (s : State) : State := { s with DT := countDown s.DT, ST := countDown s.ST }

/-- wait <- true, waitReg <- x (R243). -/
def State.setLatch (s : State) (x : Reg) : State := { s with wait := true, waitReg := x }

/-- The least key held, if one is held (R126; log 22). -/
def firstKey (keys : Vector Bool Config.numKeys) : Option (Fin Config.numKeys) :=
  (List.finRange Config.numKeys).find? (fun i => keys[i])

/-- V[waitReg] <- i, wait <- false (R126). -/
def State.resolveWait (s : State) (i : Fin Config.numKeys) : State :=
  { s.setV s.waitReg (BitVec.ofNat 8 i.val) with wait := false }

/-! ## The inputs of a tick (R121, R122, R123) -/

/-- The inputs of the coming tick: the first of `inputs`, or the free inputs of its number (log 21). -/
def State.tickInput (s : State) : TickInput :=
  match s.inputs with
  | i :: _ => i
  | [] => ⟨Config.keysIn s.ticks, Config.rndIn s.ticks⟩

/-- keys <- keysIn, changed <- false, and the random byte at hand: the start of every tick (R120 to R123). -/
def State.beginTick (s : State) : State :=
  { s with
    keys := s.tickInput.keys
    rnd := s.tickInput.rnd
    changed := false
    inputs := s.inputs.tail
    ticks := s.ticks + 1 }

/-! ## Construction with a FONT -/

/-- init(memory): the 80 bytes of FONT at 0x000 to 0x04F, and nothing else written (R8, R320). -/
def State.init (s : State) (f : Font) : State := { s with mem := Memory.writeList s.mem Config.fontBase f.toList }

/-- The block after construction with the given FONT: the parameter of the model that R321 asks for. All else is as in
`State.reset`, which is the block constructed with the default FONT (R43, R320, R321; log 1). -/
def State.construct (f : Font) : State := State.reset.init f

/-! ## Faults and program load -/

/-- The block after a tick that began from `s` raised `f`: `fault` is set and no write of the instruction is
made. Whether the key snapshot, the clearing of `changed` and the countdown stay is free (R133, D16; log 20). -/
def State.afterFault (s : State) (f : Fault) : State :=
  { s.beginTick with
    keys := if Config.faultKeepsKeys s.ticks then s.beginTick.keys else s.keys
    changed := if Config.faultKeepsChanged s.ticks then false else s.changed
    DT := if Config.faultKeepsTimers s.ticks then countDown s.DT else s.DT
    ST := if Config.faultKeepsTimers s.ticks then countDown s.ST else s.ST
    fault := f.report }

/-- load(program): the program's bytes from 0x200 on, or LoadTooLarge with nothing written when they do not fit
(R287, R322). The host does it once, before the first tick (R323; log 26). -/
def State.load (s : State) (program : List Byte) : Answer :=
  if Config.loadAddr + program.length ≤ Config.memSize then
    .next { s with mem := Memory.writeList s.mem Config.loadAddr program }
  else .fault .loadTooLarge

end Sys2Proof.Machine
end

