-- ==== Sys2Proof/Machine/Operands.lean ====
section
/-! DEFINITION. The operand forms beyond a register or an immediate: zero-extended addresses, the register block
V0..Vx, decimal digits, the glyph address, the key a register names, and the indexed address. -/

namespace Sys2Proof.Machine

/-- A 12-bit immediate in a 16-bit register, zero-extended (R92). -/
def zextAddr (nnn : Addr12) : Word := nnn.setWidth 16

/-- V[0] + nnn, not masked: at most 0x10FE, which fits 16 bits (R154, D3; log 7). -/
def State.offsetTarget (s : State) (nnn : Addr12) : Word :=
  BitVec.ofNat 16 ((s.v 0).toNat + nnn.toNat)

/-- I as an address; data addresses I + k are unbounded naturals (R68; log 9). -/
def State.indexAddr (s : State) : Nat := s.I.toNat

/-- The bytes of V0..Vx, x included (R93, R214). -/
def State.regBlock (s : State) (x : Reg) : List Byte := s.V.toList.take (x.val + 1)

/-- The hundreds, tens and units of a byte (R213). -/
def bcdDigits (b : Byte) : List Byte :=
  [BitVec.ofNat 8 (b.toNat / 100), BitVec.ofNat 8 (b.toNat / 10 % 10), BitVec.ofNat 8 (b.toNat % 10)]

/-- V[x] * 5: the address of the glyph of the full byte (R212, D13; log 17). -/
def glyphAddr (b : Byte) : Word := BitVec.ofNat 16 (b.toNat * Config.glyphBytes)

/-- The exact sum I + V[x] of Fx1E (R211). -/
def State.indexSum (s : State) (x : Reg) : Nat := s.I.toNat + (s.v x).toNat

/-- The low 12 bits of a sum, as I receives it (R24, R211). -/
def mask12 (n : Nat) : Word := BitVec.ofNat 16 (n &&& 0xFFF)

/-- The key that V[x] numbers, or KeyIndexOutOfRange, for the instruction of the given word (R159, R160, R286;
log 12). -/
def State.keyHeld (s : State) (word : Word) (x : Reg) : Except Fault Bool :=
  if h : (s.v x).toNat < Config.numKeys then .ok (s.keys[(s.v x).toNat]'h)
  else .error (.keyIndexOutOfRange word s.pc)

end Sys2Proof.Machine
end

