-- ==== Sys2Proof/Machine/Alu.lean ====
section
/-! DEFINITION. The ALU and register loads, spec/42_alu.md. Every one of them sets pc to p + 2 and raises no fault.
Results are computed mod 256 (R180), operands are read first, and a flag is written last (R181). -/

namespace Sys2Proof.Machine

/-- V[x] <- b, pc <- p + 2: an instruction that writes no flag. -/
def State.assign (s : State) (x : Reg) (b : Byte) : State := (s.setV x b).advance

/-- V[x] <- b, VF <- the flag, pc <- p + 2 (R181). -/
def State.assignFlag (s : State) (x : Reg) (b : Byte) (flag : Bool) : State := (s.setVFlag x b flag).advance

/-- 6xnn LD Vx, nn (R182). -/
def execLdImm (x : Reg) (nn : Byte) (s : State) : Answer := .next (s.assign x nn)

/-- 7xnn ADD Vx, nn: no flag (R183, C2). -/
def execAddImm (x : Reg) (nn : Byte) (s : State) : Answer := .next (s.assign x (s.v x + nn))

/-- 8xy0 MOV Vx, Vy (R184). -/
def execMovReg (x y : Reg) (s : State) : Answer := .next (s.assign x (s.v y))

/-- 8xy1 OR Vx, Vy (R185; log 13). -/
def execOrReg (x y : Reg) (s : State) : Answer := .next (s.assign x (s.v x ||| s.v y))

/-- 8xy2 AND Vx, Vy (R186; log 13). -/
def execAndReg (x y : Reg) (s : State) : Answer := .next (s.assign x (s.v x &&& s.v y))

/-- 8xy3 XOR Vx, Vy (R187; log 13). -/
def execXorReg (x y : Reg) (s : State) : Answer := .next (s.assign x (s.v x ^^^ s.v y))

/-- 8xy4 ADD Vx, Vy: VF = carry (R188). -/
def execAddReg (x y : Reg) (s : State) : Answer :=
  .next (s.assignFlag x (s.v x + s.v y) (carry (s.v x) (s.v y)))

/-- 8xy5 SUB Vx, Vy: VF = NOT borrow (R189). -/
def execSubReg (x y : Reg) (s : State) : Answer :=
  .next (s.assignFlag x (s.v x - s.v y) (notBorrow (s.v x) (s.v y)))

/-- 8xy6 SHR Vx: V[y] is not read, VF = bit 0 before the shift (R190, D7; log 11). -/
def execShr (x _y : Reg) (s : State) : Answer :=
  .next (s.assignFlag x (s.v x >>> 1) (shiftedOutRight (s.v x)))

/-- 8xy7 SUBN Vx, Vy: V[y] - V[x], VF = NOT borrow (R191; PRESUMED, log 4). -/
def execSubn (x y : Reg) (s : State) : Answer :=
  .next (s.assignFlag x (s.v y - s.v x) (notBorrow (s.v y) (s.v x)))

/-- 8xyE SHL Vx: V[y] is not read, VF = bit 7 before the shift (R192, D7; log 11). -/
def execShl (x _y : Reg) (s : State) : Answer :=
  .next (s.assignFlag x (s.v x <<< 1) (shiftedOutLeft (s.v x)))

/-- Cxnn RND Vx, nn: the tick's random byte under the mask (R193, R121; log 21). -/
def execRnd (x : Reg) (nn : Byte) (s : State) : Answer := .next (s.assign x (s.rnd &&& nn))

end Sys2Proof.Machine
end

