-- ==== Sys2Proof/Syntax.lean ====
section
/-! DEFINITION. The 35 instructions of the opcode map, spec/30_encoding.md R94, one constructor per row
and in the order of the rows. Fields that an instruction encodes and does not read (the y of SHR and SHL,
the nnn of SYS) are kept, so that a word and its instruction determine each other (log 35). -/

namespace Sys2Proof

/-- An instruction of the opcode map (R94). -/
inductive Instr where
  /-- row 1, 00E0 CLS (R261) -/
  | cls
  /-- row 2, 00EE RET (R150) -/
  | ret
  /-- row 3, 0nnn SYS nnn, for words other than 00E0 and 00EE (R151, R97) -/
  | sys (nnn : Addr12)
  /-- row 4, 1nnn JP nnn (R152) -/
  | jp (nnn : Addr12)
  /-- row 5, 2nnn CALL nnn (R153) -/
  | call (nnn : Addr12)
  /-- row 6, 3xnn SE Vx, nn (R155) -/
  | seImm (x : Reg) (nn : Byte)
  /-- row 7, 4xnn SNE Vx, nn (R156) -/
  | sneImm (x : Reg) (nn : Byte)
  /-- row 8, 5xy0 SE Vx, Vy (R157) -/
  | seReg (x y : Reg)
  /-- row 9, 6xnn LD Vx, nn (R182) -/
  | ldImm (x : Reg) (nn : Byte)
  /-- row 10, 7xnn ADD Vx, nn (R183) -/
  | addImm (x : Reg) (nn : Byte)
  /-- row 11, 8xy0 MOV Vx, Vy (R184) -/
  | movReg (x y : Reg)
  /-- row 12, 8xy1 OR Vx, Vy (R185) -/
  | orReg (x y : Reg)
  /-- row 13, 8xy2 AND Vx, Vy (R186) -/
  | andReg (x y : Reg)
  /-- row 14, 8xy3 XOR Vx, Vy (R187) -/
  | xorReg (x y : Reg)
  /-- row 15, 8xy4 ADD Vx, Vy (R188) -/
  | addReg (x y : Reg)
  /-- row 16, 8xy5 SUB Vx, Vy (R189) -/
  | subReg (x y : Reg)
  /-- row 17, 8xy6 SHR Vx; y is encoded and not read (R190) -/
  | shr (x y : Reg)
  /-- row 18, 8xy7 SUBN Vx, Vy (R191) -/
  | subn (x y : Reg)
  /-- row 19, 8xyE SHL Vx; y is encoded and not read (R192) -/
  | shl (x y : Reg)
  /-- row 20, 9xy0 SNE Vx, Vy (R158) -/
  | sneReg (x y : Reg)
  /-- row 21, Annn LD I, nnn (R210) -/
  | ldI (nnn : Addr12)
  /-- row 22, Bnnn JP V0, nnn (R154) -/
  | jpV0 (nnn : Addr12)
  /-- row 23, Cxnn RND Vx, nn (R193) -/
  | rnd (x : Reg) (nn : Byte)
  /-- row 24, Dxyn DRW Vx, Vy, n (R262) -/
  | drw (x y : Reg) (n : Nibble)
  /-- row 25, Ex9E SKP Vx (R159) -/
  | skp (x : Reg)
  /-- row 26, ExA1 SKNP Vx (R160) -/
  | sknp (x : Reg)
  /-- row 27, Fx07 LD Vx, DT (R240) -/
  | ldVxDt (x : Reg)
  /-- row 28, Fx0A LD Vx, K (R243) -/
  | ldVxKey (x : Reg)
  /-- row 29, Fx15 LD DT, Vx (R241) -/
  | ldDtVx (x : Reg)
  /-- row 30, Fx18 LD ST, Vx (R242) -/
  | ldStVx (x : Reg)
  /-- row 31, Fx1E ADD I, Vx (R211) -/
  | addIVx (x : Reg)
  /-- row 32, Fx29 LD F, Vx (R212) -/
  | ldFontVx (x : Reg)
  /-- row 33, Fx33 LD B, Vx (R213) -/
  | ldBcdVx (x : Reg)
  /-- row 34, Fx55 LD [I], Vx (R214) -/
  | ldMemVx (x : Reg)
  /-- row 35, Fx65 LD Vx, [I] (R215) -/
  | ldVxMem (x : Reg)
  deriving DecidableEq, Repr

end Sys2Proof
end

