-- ==== Sys2Proof/WellFormed.lean ====
section
/-! DEFINITION. Which instructions the encoding admits. The types of the fields already bound every operand
(R92, R93); the one check left is that SYS stands only for words that rows 1 and 2 do not take (R95). -/

namespace Sys2Proof

/-- SYS nnn is row 3 only when its word is neither 00E0 nor 00EE (R95, R151). -/
def sysOperandAllowed (nnn : Addr12) : Bool := nnn ≠ 0x0E0 ∧ nnn ≠ 0x0EE

/-- An instruction that some word decodes to. -/
def Instr.wf : Instr → Bool
  | .sys nnn => sysOperandAllowed nnn
  | _ => true

end Sys2Proof
end

