-- ==== Sys2Proof/Decode.lean ====
section
/-! DEFINITION. The decoder, the encoder and the opcode map as a table (spec/30_encoding.md). -/

namespace Sys2Proof

/-! ## Fields of the instruction word (R91) -/

/-- The opcode nibble, w[15:12]. -/
def opField (w : Word) : Nibble := w.extractLsb' 12 4

/-- The register index x, w[11:8]. -/
def xField (w : Word) : Reg := (w.extractLsb' 8 4).toFin

/-- The register index y, w[7:4]. -/
def yField (w : Word) : Reg := (w.extractLsb' 4 4).toFin

/-- The low nibble n, w[3:0]. -/
def nField (w : Word) : Nibble := w.extractLsb' 0 4

/-- The immediate byte nn, w[7:0]. -/
def nnField (w : Word) : Byte := w.extractLsb' 0 8

/-- The immediate address nnn, w[11:0]. -/
def nnnField (w : Word) : Addr12 := w.extractLsb' 0 12

/-- The 4 bits of a register field. -/
def regBits (x : Reg) : Nibble := BitVec.ofFin x

/-- An instruction word from its two bytes, the first at the lower address: big-endian (R62, R90). -/
def wordOfBytes (hi lo : Byte) : Word := hi ++ lo

/-! ## The decoder (R94, R95, R96) -/

/-- Why the decoder answers no instruction. -/
inductive DecodeError where
  /-- the word matches no row of the opcode map (R96, R281) -/
  | unsupportedOpcode (w : Word)
  /-- fewer than the two bytes of an instruction (R98); never met by a fetch, which reads two -/
  | truncated
  deriving DecidableEq, Repr

/-- Rows 1 to 3: 00E0 and 00EE are matched before 0nnn (R95). -/
def decodeOp0 (w : Word) : Instr :=
  if w = 0x00E0 then .cls else if w = 0x00EE then .ret else .sys (nnnField w)

/-- Rows 11 to 19, by the low nibble (R94; the assignment is PRESUMED, log 2). -/
def decodeOp8 (w : Word) : Except DecodeError Instr :=
  match (nField w).toNat with
  | 0x0 => .ok (.movReg (xField w) (yField w))
  | 0x1 => .ok (.orReg (xField w) (yField w))
  | 0x2 => .ok (.andReg (xField w) (yField w))
  | 0x3 => .ok (.xorReg (xField w) (yField w))
  | 0x4 => .ok (.addReg (xField w) (yField w))
  | 0x5 => .ok (.subReg (xField w) (yField w))
  | 0x6 => .ok (.shr (xField w) (yField w))
  | 0x7 => .ok (.subn (xField w) (yField w))
  | 0xE => .ok (.shl (xField w) (yField w))
  | _ => .error (.unsupportedOpcode w)

/-- Rows 25 and 26, by the low byte (R94). -/
def decodeOpE (w : Word) : Except DecodeError Instr :=
  match (nnField w).toNat with
  | 0x9E => .ok (.skp (xField w))
  | 0xA1 => .ok (.sknp (xField w))
  | _ => .error (.unsupportedOpcode w)

/-- Rows 27 to 35, by the low byte (R94; which of Fx07 and Fx15 reads DT is PRESUMED, log 3). -/
def decodeOpF (w : Word) : Except DecodeError Instr :=
  match (nnField w).toNat with
  | 0x07 => .ok (.ldVxDt (xField w))
  | 0x0A => .ok (.ldVxKey (xField w))
  | 0x15 => .ok (.ldDtVx (xField w))
  | 0x18 => .ok (.ldStVx (xField w))
  | 0x1E => .ok (.addIVx (xField w))
  | 0x29 => .ok (.ldFontVx (xField w))
  | 0x33 => .ok (.ldBcdVx (xField w))
  | 0x55 => .ok (.ldMemVx (xField w))
  | 0x65 => .ok (.ldVxMem (xField w))
  | _ => .error (.unsupportedOpcode w)

/-- The instruction of a word, or the refusal by name of a word that matches no row. Total, and a function
of the word alone (R101). -/
def decode (w : Word) : Except DecodeError Instr :=
  match (opField w).toNat with
  | 0x0 => .ok (decodeOp0 w)
  | 0x1 => .ok (.jp (nnnField w))
  | 0x2 => .ok (.call (nnnField w))
  | 0x3 => .ok (.seImm (xField w) (nnField w))
  | 0x4 => .ok (.sneImm (xField w) (nnField w))
  | 0x5 => if nField w = 0 then .ok (.seReg (xField w) (yField w)) else .error (.unsupportedOpcode w)
  | 0x6 => .ok (.ldImm (xField w) (nnField w))
  | 0x7 => .ok (.addImm (xField w) (nnField w))
  | 0x8 => decodeOp8 w
  | 0x9 => if nField w = 0 then .ok (.sneReg (xField w) (yField w)) else .error (.unsupportedOpcode w)
  | 0xA => .ok (.ldI (nnnField w))
  | 0xB => .ok (.jpV0 (nnnField w))
  | 0xC => .ok (.rnd (xField w) (nnField w))
  | 0xD => .ok (.drw (xField w) (yField w) (nField w))
  | 0xE => decodeOpE w
  | 0xF => decodeOpF w
  | _ => .error (.unsupportedOpcode w)   -- a nibble is at most 0xF: never reached

/-- The instruction at the head of a list of bytes, and the bytes after it (R62, R98). -/
def decodeBytes : List Byte → Except DecodeError (Instr × List Byte)
  | hi :: lo :: rest =>
    match decode (wordOfBytes hi lo) with
    | .ok i => .ok (i, rest)
    | .error e => .error e
  | _ => .error .truncated

/-- The two bytes of a word as the hardware stores them, high byte first (R62). -/
def bytesOfWord (w : Word) : List Byte := [w.extractLsb' 8 8, w.extractLsb' 0 8]

/-- The word of a table row's `nbits` bits, every bit above them 0. All rows have 16 bits. -/
def tableWord (nbits w : Nat) : Word := BitVec.ofNat 16 (w % 2 ^ nbits)

/-- The instruction the decoder reads from an instruction whose bits are `w`, numbered as
spec/opcode_table.json numbers them. -/
def decodeTableWord (nbits w : Nat) : Option Instr :=
  match decodeBytes (bytesOfWord (tableWord nbits w)) with
  | .ok (i, _) => some i
  | .error _ => none

/-! ## The encoder (R91, R94) -/

/-- The word of an instruction, its fields side by side as the pattern of its row has them. -/
def encode : Instr → Word
  | .cls => 0x00E0
  | .ret => 0x00EE
  | .sys nnn => 0x0#4 ++ nnn
  | .jp nnn => 0x1#4 ++ nnn
  | .call nnn => 0x2#4 ++ nnn
  | .seImm x nn => 0x3#4 ++ regBits x ++ nn
  | .sneImm x nn => 0x4#4 ++ regBits x ++ nn
  | .seReg x y => 0x5#4 ++ regBits x ++ regBits y ++ 0x0#4
  | .ldImm x nn => 0x6#4 ++ regBits x ++ nn
  | .addImm x nn => 0x7#4 ++ regBits x ++ nn
  | .movReg x y => 0x8#4 ++ regBits x ++ regBits y ++ 0x0#4
  | .orReg x y => 0x8#4 ++ regBits x ++ regBits y ++ 0x1#4
  | .andReg x y => 0x8#4 ++ regBits x ++ regBits y ++ 0x2#4
  | .xorReg x y => 0x8#4 ++ regBits x ++ regBits y ++ 0x3#4
  | .addReg x y => 0x8#4 ++ regBits x ++ regBits y ++ 0x4#4
  | .subReg x y => 0x8#4 ++ regBits x ++ regBits y ++ 0x5#4
  | .shr x y => 0x8#4 ++ regBits x ++ regBits y ++ 0x6#4
  | .subn x y => 0x8#4 ++ regBits x ++ regBits y ++ 0x7#4
  | .shl x y => 0x8#4 ++ regBits x ++ regBits y ++ 0xE#4
  | .sneReg x y => 0x9#4 ++ regBits x ++ regBits y ++ 0x0#4
  | .ldI nnn => 0xA#4 ++ nnn
  | .jpV0 nnn => 0xB#4 ++ nnn
  | .rnd x nn => 0xC#4 ++ regBits x ++ nn
  | .drw x y n => 0xD#4 ++ regBits x ++ regBits y ++ n
  | .skp x => 0xE#4 ++ regBits x ++ 0x9E#8
  | .sknp x => 0xE#4 ++ regBits x ++ 0xA1#8
  | .ldVxDt x => 0xF#4 ++ regBits x ++ 0x07#8
  | .ldVxKey x => 0xF#4 ++ regBits x ++ 0x0A#8
  | .ldDtVx x => 0xF#4 ++ regBits x ++ 0x15#8
  | .ldStVx x => 0xF#4 ++ regBits x ++ 0x18#8
  | .addIVx x => 0xF#4 ++ regBits x ++ 0x1E#8
  | .ldFontVx x => 0xF#4 ++ regBits x ++ 0x29#8
  | .ldBcdVx x => 0xF#4 ++ regBits x ++ 0x33#8
  | .ldMemVx x => 0xF#4 ++ regBits x ++ 0x55#8
  | .ldVxMem x => 0xF#4 ++ regBits x ++ 0x65#8

/-! ## The opcode map as a table (R94) -/

/-- One row of the opcode map: a word matches it when its bits under `mask` are `pat`. -/
structure OpcodeRow where
  number : Nat
  mask : Word
  pat : Word
  deriving DecidableEq, Repr

/-- The word equals the pattern in every digit that the pattern gives as a digit (R94). -/
def OpcodeRow.matchesWord (r : OpcodeRow) (w : Word) : Bool := w &&& r.mask == r.pat

/-- The mask and match columns of R94, in the order of the rows. -/
def opcodeMap : List OpcodeRow :=
  [⟨1, 0xFFFF, 0x00E0⟩, ⟨2, 0xFFFF, 0x00EE⟩, ⟨3, 0xF000, 0x0000⟩, ⟨4, 0xF000, 0x1000⟩, ⟨5, 0xF000, 0x2000⟩,
   ⟨6, 0xF000, 0x3000⟩, ⟨7, 0xF000, 0x4000⟩, ⟨8, 0xF00F, 0x5000⟩, ⟨9, 0xF000, 0x6000⟩, ⟨10, 0xF000, 0x7000⟩] ++
  [⟨11, 0xF00F, 0x8000⟩, ⟨12, 0xF00F, 0x8001⟩, ⟨13, 0xF00F, 0x8002⟩, ⟨14, 0xF00F, 0x8003⟩, ⟨15, 0xF00F, 0x8004⟩,
   ⟨16, 0xF00F, 0x8005⟩, ⟨17, 0xF00F, 0x8006⟩, ⟨18, 0xF00F, 0x8007⟩, ⟨19, 0xF00F, 0x800E⟩, ⟨20, 0xF00F, 0x9000⟩] ++
  [⟨21, 0xF000, 0xA000⟩, ⟨22, 0xF000, 0xB000⟩, ⟨23, 0xF000, 0xC000⟩, ⟨24, 0xF000, 0xD000⟩, ⟨25, 0xF0FF, 0xE09E⟩,
   ⟨26, 0xF0FF, 0xE0A1⟩, ⟨27, 0xF0FF, 0xF007⟩, ⟨28, 0xF0FF, 0xF00A⟩, ⟨29, 0xF0FF, 0xF015⟩, ⟨30, 0xF0FF, 0xF018⟩] ++
  [⟨31, 0xF0FF, 0xF01E⟩, ⟨32, 0xF0FF, 0xF029⟩, ⟨33, 0xF0FF, 0xF033⟩, ⟨34, 0xF0FF, 0xF055⟩, ⟨35, 0xF0FF, 0xF065⟩]

/-- The first row a word matches, in the decode order of R95. -/
def firstRow (w : Word) : Option OpcodeRow := opcodeMap.find? (fun r => r.matchesWord w)

/-- The number of an instruction's row in R94. -/
def Instr.rowNumber : Instr → Nat
  | .cls => 1
  | .ret => 2
  | .sys _ => 3
  | .jp _ => 4
  | .call _ => 5
  | .seImm _ _ => 6
  | .sneImm _ _ => 7
  | .seReg _ _ => 8
  | .ldImm _ _ => 9
  | .addImm _ _ => 10
  | .movReg _ _ => 11
  | .orReg _ _ => 12
  | .andReg _ _ => 13
  | .xorReg _ _ => 14
  | .addReg _ _ => 15
  | .subReg _ _ => 16
  | .shr _ _ => 17
  | .subn _ _ => 18
  | .shl _ _ => 19
  | .sneReg _ _ => 20
  | .ldI _ => 21
  | .jpV0 _ => 22
  | .rnd _ _ => 23
  | .drw _ _ _ => 24
  | .skp _ => 25
  | .sknp _ => 26
  | .ldVxDt _ => 27
  | .ldVxKey _ => 28
  | .ldDtVx _ => 29
  | .ldStVx _ => 30
  | .addIVx _ => 31
  | .ldFontVx _ => 32
  | .ldBcdVx _ => 33
  | .ldMemVx _ => 34
  | .ldVxMem _ => 35

end Sys2Proof
end

