-- ==== Sys2Proof/Machine/ControlFlow.lean ====
section
/-! DEFINITION. The control-flow instructions, spec/41_control_flow.md: RET, SYS, JP, CALL, JP V0 and the six
skips. -/

namespace Sys2Proof.Machine

/-- 00EE RET (R150). -/
def execRet (s : State) : Answer :=
  match s.pop (encode .ret) with
  | .error f => .fault f
  | .ok (r, t) => .next (t.setPc r)

/-- 0nnn SYS: no operation (R151, D26; log 27). -/
def execSys (_nnn : Addr12) (s : State) : Answer := .next s.advance

/-- 1nnn JP nnn (R152). -/
def execJp (nnn : Addr12) (s : State) : Answer := .next (s.setPc (zextAddr nnn))

/-- 2nnn CALL nnn: the return address is the word after the call (R153, R135). -/
def execCall (nnn : Addr12) (s : State) : Answer :=
  match s.push (encode (.call nnn)) (s.pc + 2) with
  | .error f => .fault f
  | .ok t => .next (t.setPc (zextAddr nnn))

/-- Bnnn JP V0, nnn (R154). -/
def execJpV0 (nnn : Addr12) (s : State) : Answer := .next (s.setPc (s.offsetTarget nnn))

/-- 3xnn SE Vx, nn (R155). -/
def execSeImm (x : Reg) (nn : Byte) (s : State) : Answer := .next (s.skipIf (s.v x == nn))

/-- 4xnn SNE Vx, nn (R156). -/
def execSneImm (x : Reg) (nn : Byte) (s : State) : Answer := .next (s.skipIf (s.v x != nn))

/-- 5xy0 SE Vx, Vy (R157). -/
def execSeReg (x y : Reg) (s : State) : Answer := .next (s.skipIf (s.v x == s.v y))

/-- 9xy0 SNE Vx, Vy (R158). -/
def execSneReg (x y : Reg) (s : State) : Answer := .next (s.skipIf (s.v x != s.v y))

/-- Ex9E SKP Vx (R159). -/
def execSkp (x : Reg) (s : State) : Answer :=
  match s.keyHeld (encode (.skp x)) x with
  | .error f => .fault f
  | .ok held => .next (s.skipIf held)

/-- ExA1 SKNP Vx (R160). -/
def execSknp (x : Reg) (s : State) : Answer :=
  match s.keyHeld (encode (.sknp x)) x with
  | .error f => .fault f
  | .ok held => .next (s.skipIf (!held))

end Sys2Proof.Machine
end

