-- ==== Sys2Proof/Machine/Display.lean ====
section
/-! DEFINITION. The framebuffer instructions, spec/45_display.md: CLS and DRW. -/

namespace Sys2Proof.Machine

/-- A framebuffer being drawn on, and whether a cell has gone from 1 to 0 so far (R262 "coll"). -/
structure Canvas where
  fb : Framebuffer
  coll : Bool
  deriving DecidableEq, Repr

/-- One sprite bit at a cell: a 1 flips the cell and collides with a set one, a 0 leaves it (R262). -/
def drawBit (c : Canvas) (Y : Fin Config.fbH) (X : Fin Config.fbW) (bit : Bool) : Canvas :=
  if bit then ⟨c.fb.flip Y X, c.coll || c.fb.cell Y X⟩ else c

/-- One sprite row at row Y from coordinate vx on: column c takes bit 7 - c (R262 "MSB first"). -/
def drawRow (cv : Canvas) (vx : Nat) (Y : Fin Config.fbH) (row : Byte) : Canvas :=
  (List.range 8).foldl (fun cv c => drawBit cv Y (columnOf (vx + c)) (row.getLsbD (7 - c))) cv

/-- The sprite rows, the first at coordinate vy and each next one a row further (R262). -/
def drawRows (cv : Canvas) (vx : Nat) : Nat → List Byte → Canvas
  | _, [] => cv
  | vy, row :: rows => drawRows (drawRow cv vx (rowOf vy) row) vx (vy + 1) rows

/-- The sprite drawn at the coordinates of V[x] and V[y], which are read before VF is written (R262). -/
def State.drawSprite (s : State) (x y : Reg) (rows : List Byte) : Canvas :=
  drawRows ⟨s.fb, false⟩ (s.v x).toNat (s.v y).toNat rows

/-- 00E0 CLS (R261). -/
def execCls (s : State) : Answer := .next (s.setFb Framebuffer.blank).advance

/-- Dxyn DRW Vx, Vy, n (R262): VF = collision, written after the draw. -/
def execDrw (x y : Reg) (n : Nibble) (s : State) : Answer :=
  match s.memRead (some (encode (.drw x y n))) s.indexAddr n.toNat with
  | .error f => .fault f
  | .ok rows =>
    let cv := s.drawSprite x y rows
    .next ((s.setFb cv.fb).setV regF (flagByte cv.coll)).advance

end Sys2Proof.Machine
end

