-- ==== Sys2Proof/Machine/IndexMemory.lean ====
section
/-! DEFINITION. The index register and memory instructions, spec/43_index_memory.md: LD I, ADD I, LD F, LD B, LD [I]
and LD Vx, [I]. A faulting one changes nothing (R70), and none but the first three changes I. -/

namespace Sys2Proof.Machine

/-- Annn LD I, nnn (R210). -/
def execLdI (nnn : Addr12) (s : State) : Answer := .next (s.setI (zextAddr nnn)).advance

/-- Fx1E under a policy: I <- the low 12 bits of the sum, and then VF as the policy says (R211). -/
def State.addIndex (s : State) (policy : Fx1ePolicy) (x : Reg) : State :=
  (s.setI (mask12 (s.indexSum x))).setVFlag? (indexFlag policy (s.indexSum x))

/-- Fx1E ADD I, Vx (R211, D10; log 14). -/
def execAddIVx (x : Reg) (s : State) : Answer := .next (s.addIndex fx1ePolicy x).advance

/-- Fx29 LD F, Vx (R212). -/
def execLdFontVx (x : Reg) (s : State) : Answer := .next (s.setI (glyphAddr (s.v x))).advance

/-- Fx33 LD B, Vx (R213). -/
def execLdBcdVx (x : Reg) (s : State) : Answer :=
  match s.memWrite (encode (.ldBcdVx x)) s.indexAddr (bcdDigits (s.v x)) with
  | .error f => .fault f
  | .ok t => .next t.advance

/-- Fx55 LD [I], Vx (R214; I unchanged, log 15). -/
def execLdMemVx (x : Reg) (s : State) : Answer :=
  match s.memWrite (encode (.ldMemVx x)) s.indexAddr (s.regBlock x) with
  | .error f => .fault f
  | .ok t => .next t.advance

/-- Fx65 LD Vx, [I] (R215; I unchanged, log 15). -/
def execLdVxMem (x : Reg) (s : State) : Answer :=
  match s.memRead (some (encode (.ldVxMem x))) s.indexAddr (x.val + 1) with
  | .error f => .fault f
  | .ok bytes => .next (s.loadRegs 0 bytes).advance

end Sys2Proof.Machine
end

