-- ==== Sys2Proof/Machine/TimersKeys.lean ====
section
/-! DEFINITION. The timer and key-wait instructions, spec/44_timers_keys.md. They run after the tick's countdown
(R127). -/

namespace Sys2Proof.Machine

/-- Fx07 LD Vx, DT (R240; which of Fx07 and Fx15 reads is PRESUMED, log 3). -/
def execLdVxDt (x : Reg) (s : State) : Answer := .next (s.setV x s.DT).advance

/-- Fx0A LD Vx, K: sets the latch and looks at no key (R243). -/
def execLdVxKey (x : Reg) (s : State) : Answer := .next (s.setLatch x).advance

/-- Fx15 LD DT, Vx (R241; log 3). -/
def execLdDtVx (x : Reg) (s : State) : Answer := .next (s.setDT (s.v x)).advance

/-- Fx18 LD ST, Vx (R242). -/
def execLdStVx (x : Reg) (s : State) : Answer := .next (s.setST (s.v x)).advance

end Sys2Proof.Machine
end

