-- ==== Sys2Proof/Machine/Tick.lean ====
section
/-! DEFINITION. The tick, spec/40_execution_step.md R120: key snapshot, the keyboard-wait latch, countdown, fetch,
decode, dispatch, and the snapshot or the fault report. -/

namespace Sys2Proof.Machine

/-- What a tick that does not fault gives the host (R7, R131). -/
structure Snapshot where
  fb : Framebuffer
  changed : Bool
  beep : Bool
  deriving DecidableEq, Repr

/-- The snapshot of the state at the end of a tick: beep = (ST > 0) (R131). -/
def State.snapshot (s : State) : Snapshot := ⟨s.fb, s.changed, decide (0 < s.ST.toNat)⟩

/-- How a tick ends (R7, R120). -/
inductive TickResult where
  /-- a snapshot, and the state after the tick -/
  | snapshot (out : Snapshot) (s : State)
  /-- a fault report, and the halted block (R133, R280) -/
  | report (f : Fault) (s : State)
  /-- no tick: the block has a fault recorded (R134) -/
  | noTick
  /-- the instruction has no meaning in the model; no row of the opcode map answers so -/
  | refused (r : Refusal)
  deriving DecidableEq, Repr

/-- The word at the pc, high byte first; the pc is not changed (R62, R128). -/
def State.fetch (s : State) : Except Fault Word :=
  match s.fetchByte s.pc.toNat with
  | .error f => .error f
  | .ok hi =>
    match s.fetchByte (s.pc.toNat + 1) with
    | .error f => .error f
    | .ok lo => .ok (wordOfBytes hi lo)

/-- Decode and dispatch of a fetched word (R129, R130). -/
def State.dispatchWord (s : State) (w : Word) : Answer :=
  match decode w with
  | .ok i => exec i s
  | .error _ => .fault (.unsupportedOpcode w s.pc)

/-- Countdown, fetch, decode and dispatch: the execute branch of R120, on a state whose inputs are in place. -/
def State.executeOne (s : State) : Answer :=
  let t := s.countDownTimers
  match t.fetch with
  | .error f => .fault f
  | .ok w => t.dispatchWord w

/-- The wait branch of R120: a stall while no key is held, and the resolution when one is (R125, R126). -/
def State.waitTick (s : State) : State :=
  match firstKey s.keys with
  | none => s
  | some i => s.resolveWait i

/-- One tick from a state whose inputs are in place (R120). -/
def State.tickBody (s : State) : Answer := if s.wait then .next s.waitTick else s.executeOne

/-- One tick in full (R120). -/
def tick (s : State) : TickResult :=
  if s.fault.isSome then .noTick
  else
    match s.beginTick.tickBody with
    | .next t => .snapshot t.snapshot t
    | .fault f => .report f (s.afterFault f)
    | .refused r => .refused r

/-- The tick as the outcome of a step: a fault ends the run (R134; log 33). -/
def stepOutcome : TickResult → Answer
  | .snapshot _ s => .next s
  | .report f _ => .fault f
  | .noTick => .fault .noTick
  | .refused r => .refused r

/-- The two bytes of a word stored at an address, where both bytes are inside memory. -/
def Memory.placeWord (m : Memory) (a : Nat) (w : Word) : Memory :=
  if a + 1 < Config.memSize then Memory.writeList m a (bytesOfWord w) else m

/-- The state with a word where the next tick fetches: at the pc, with the latch clear and no fault recorded, for a
waiting or halted block fetches nothing (R124, R134; log 26). -/
def State.placeAtPc (s : State) (w : Word) : State :=
  { s with mem := Memory.placeWord s.mem s.pc.toNat w, wait := false, fault := none }

end Sys2Proof.Machine
end

