-- ==== Sys2Proof/Machine/Step.lean ====
section
/-! DEFINITION. The step the host runs: one tick (spec/40_execution_step.md R120). -/

namespace Sys2Proof.Machine

/-- One tick of the block, with its inputs taken from the state (log 21). -/
def step (s : State) : Host.Outcome State Fault Refusal := stepOutcome (tick s)

/-- `s` with the table's word stored where `step` fetches its next instruction (log 26). -/
def State.withFetchWord (s : State) (nbits w : Nat) : State := s.placeAtPc (tableWord nbits w)

end Sys2Proof.Machine
end

