-- ==== Sys2Proof/Safety.lean ====
section
/-! DEFINITION. What claims speak of: a running block, the word it is about to execute, the conditions under which an
instruction faults (spec/60_exceptions.md R288), what an instruction may write, and the invariant of the machine. -/

namespace Sys2Proof.Machine

/-- The block executes an instruction on its next tick: no fault is recorded and the latch is clear (R124, R134). -/
def State.Running (s : State) : Prop := s.fault = none ∧ s.wait = false

/-- The block waits for a key (R124, "Waiting" of R127). -/
def State.Waiting (s : State) : Prop := s.fault = none ∧ s.wait = true

/-- Both bytes of the word at the pc are inside memory, and the word is `w`: the byte at the pc is its high byte and the next
its low byte (R62, R63). Said in numbers, apart from the fetch and from `wordOfBytes`. -/
def State.HoldsWord (s : State) (w : Word) : Prop :=
  s.pc.toNat + 1 < Config.memSize ∧
    w.toNat = 256 * (Memory.read s.mem s.pc.toNat).toNat + (Memory.read s.mem (s.pc.toNat + 1)).toNat

/-- The state in which the instruction of an execute tick runs: the tick's inputs are in place, `changed` is clear and
the timers are counted down (R120). -/
def State.atDispatch (s : State) : State := s.beginTick.countDownTimers

/-- The first address of an access of `n` bytes at `addr` that lies outside memory, where `n` is not 0 and the access
reaches outside. -/
def State.rangeFault (s : State) (word : Word) (addr n : Nat) : Option Fault :=
  if 0 < n ∧ Config.memSize ≤ addr + n - 1 then
    some (.addressOutOfRange (some word) s.pc (max addr Config.memSize))
  else none

/-- The fault of a store of `n` bytes at `addr`: range before protection (R289). -/
def State.storeFault (s : State) (word : Word) (addr n : Nat) : Option Fault :=
  if 0 < n ∧ Config.memSize ≤ addr + n - 1 then
    some (.addressOutOfRange (some word) s.pc (max addr Config.memSize))
  else if 0 < n ∧ addr < 0x050 then some (.protectedWrite word s.pc addr)
  else none

/-- The table of R288 by instruction: the fault that an instruction raises in a state, if it raises one. "No
instruction not listed raises a fault." -/
def faultOf (i : Instr) (s : State) : Option Fault :=
  match i with
  | .ret => if s.sp.val = 0 then some (.stackUnderflow 0x00EE s.pc) else none
  | .call nnn => if s.sp.val = 16 then some (.stackOverflow (encode (.call nnn)) s.pc) else none
  | .skp x => if 16 ≤ (s.v x).toNat then some (.keyIndexOutOfRange (encode (.skp x)) s.pc) else none
  | .sknp x => if 16 ≤ (s.v x).toNat then some (.keyIndexOutOfRange (encode (.sknp x)) s.pc) else none
  | .drw x y n => s.rangeFault (encode (.drw x y n)) s.I.toNat n.toNat
  | .ldVxMem x => s.rangeFault (encode (.ldVxMem x)) s.I.toNat (x.val + 1)
  | .ldBcdVx x => s.storeFault (encode (.ldBcdVx x)) s.I.toNat 3
  | .ldMemVx x => s.storeFault (encode (.ldMemVx x)) s.I.toNat (x.val + 1)
  | _ => none

/-- The pc after an instruction that completes, by the table of R27. -/
def nextPc (i : Instr) (s : State) : Word :=
  match i with
  | .seImm x nn => if s.v x = nn then s.pc + 4 else s.pc + 2
  | .sneImm x nn => if s.v x ≠ nn then s.pc + 4 else s.pc + 2
  | .seReg x y => if s.v x = s.v y then s.pc + 4 else s.pc + 2
  | .sneReg x y => if s.v x ≠ s.v y then s.pc + 4 else s.pc + 2
  | .skp x => if s.keys.toList.getD (s.v x).toNat false then s.pc + 4 else s.pc + 2
  | .sknp x => if s.keys.toList.getD (s.v x).toNat false then s.pc + 2 else s.pc + 4
  | .jp nnn => nnn.setWidth 16
  | .call nnn => nnn.setWidth 16
  | .jpV0 nnn => (s.v 0).setWidth 16 + nnn.setWidth 16
  | .ret => s.stack.toList.getD (s.sp.val - 1) 0
  | _ => s.pc + 2

/-- How many bytes, from address I on, an instruction stores (R70). -/
def storeWidth : Instr → Nat
  | .ldBcdVx _ => 3
  | .ldMemVx x => x.val + 1
  | _ => 0

/-- Whether an instruction may write a general register: its destination, VF where its rule gives a flag, and the
block V0..Vx of LD Vx, [I] (R23, R215). -/
def mayWriteReg (i : Instr) (r : Reg) : Bool :=
  match i with
  | .ldImm x _ | .addImm x _ | .movReg x _ | .orReg x _ | .andReg x _ | .xorReg x _ | .rnd x _ | .ldVxDt x => r == x
  | .addReg x _ | .subReg x _ | .shr x _ | .subn x _ | .shl x _ => r == x || r == regF
  | .drw _ _ _ | .addIVx _ => r == regF
  | .ldVxMem x => r ≤ x
  | _ => false

/-- The instruction writes the framebuffer and sets `changed` (R264). -/
def isDraw : Instr → Bool
  | .cls | .drw _ _ _ => true
  | _ => false

/-- The instruction writes I (R24). -/
def isIndexWriter : Instr → Bool
  | .ldI _ | .addIVx _ | .ldFontVx _ => true
  | _ => false

/-- The instruction pushes or pops (R29). -/
def isStackUser : Instr → Bool
  | .call _ | .ret => true
  | _ => false

/-- The sprite bit that falls on row Y and column X of the framebuffer, for a sprite at coordinates (vx, vy): row r of
the sprite covers row (vy + r) mod 32 and its column c covers column (vx + c) mod 64, the most significant bit
first (R260, R262). -/
def spriteBit (rows : List Byte) (vx vy : Nat) (Y : Fin Config.fbH) (X : Fin Config.fbW) : Bool :=
  (List.range rows.length).any fun r => (List.range 8).any fun c =>
    decide (rowOf (vy + r) = Y) && decide (columnOf (vx + c) = X) && (rows.getD r 0).getLsbD (7 - c)

/-- The sprite bytes of DRW: n bytes from I on (R262). -/
def State.spriteRows (s : State) (n : Nibble) : List Byte :=
  (List.range n.toNat).map fun r => Memory.read s.mem (s.I.toNat + r)

/-- `u` is `s` but for what a faulting tick may leave: the key snapshot, `changed`, the timers, the recorded fault, and
the model's own input fields (R133). -/
def State.NoInstructionWrite (s u : State) : Prop :=
  u = { s with keys := u.keys, changed := u.changed, DT := u.DT, ST := u.ST, fault := u.fault, rnd := u.rnd,
               inputs := u.inputs, ticks := u.ticks }

/-- `t` is `s` but for the inputs that the tick took: keys, `changed` and the model's own input fields. -/
def State.OnlyInputsTaken (s t : State) : Prop :=
  t = { s with keys := s.tickInput.keys, changed := t.changed, rnd := s.tickInput.rnd,
               inputs := s.inputs.tail, ticks := s.ticks + 1 }

/-- The font region reads as the given FONT (R66, R67). -/
def State.FontIntact (s : State) (f : Font) : Prop := ∀ a < 0x050, Memory.read s.mem a = f.toList.getD a 0

/-- The invariant that every step keeps: memory is canonical, I stays within 12 bits (R25), the pc within the largest
target (R28), and every stack entry is a return address (R153). -/
structure State.Inv (s : State) : Prop where
  memory : Memory.wf s.mem
  index : s.I.toNat ≤ 0xFFF
  counter : s.pc.toNat ≤ 0x10FE
  returns : ∀ k : Fin Config.stackDepth, s.stack[k].toNat ≤ 0x1000

end Sys2Proof.Machine
end

