-- ==== Sys2Proof/Certificates/Slice0/Obligations.lean ====
section
/-! DEFINITION. The statements about the model, from the numbered rules of spec/. A statement that rests on a decision of
the spec's own or on general knowledge names the entry of the assumption log. -/

open Sys2Proof Sys2Proof.Machine

/-! ## Encoding -/

/-- Every instruction that some word stands for is read back from its own word, with every operand at every value
(R94, R101; that `Instr` keeps the fields that an instruction does not read is the model's choice: log 35). -/
def Obligations.DecodeOfEncode : Prop :=
  ∀ i : Instr, i.wf = true → decode (encode i) = .ok i

/-- A word that decodes is the word of the instruction it decodes to, so no bit of a word is dropped, and the
instruction is well formed (R94, R101). That the whole word comes back rests on the model's choice to keep in `Instr` the fields
that an instruction encodes and does not read, the y of 8xy6 and 8xyE and the nnn of 0nnn (log 35). -/
def Obligations.EncodeOfDecode : Prop :=
  ∀ (w : Word) (i : Instr), decode w = .ok i → encode i = w ∧ i.wf = true

/-- The decoder answers by the first row of the opcode map that the word matches, and refuses exactly the words that
match none (R94, R95, R101; the low nibbles of rows 11 to 19 and the split of rows 27 and 29 are log 2 and log 3). -/
def Obligations.DecodeFollowsOpcodeMap : Prop :=
  ∀ w : Word,
    match firstRow w with
    | some row => ∃ i, decode w = .ok i ∧ i.rowNumber = row.number
    | none => decode w = .error (.unsupportedOpcode w)

/-- The illegal words, by the list of R96 (its counts are not stated here). -/
def Obligations.IllegalWordsAreExactly : Prop :=
  ∀ w : Word, decode w = .error (.unsupportedOpcode w) ↔
    (opField w = 0x5 ∧ nField w ≠ 0x0) ∨
    (opField w = 0x8 ∧ nField w ∈ [0x8#4, 0x9#4, 0xA#4, 0xB#4, 0xC#4, 0xD#4, 0xF#4]) ∨
    (opField w = 0x9 ∧ nField w ≠ 0x0) ∨
    (opField w = 0xE ∧ nnField w ∉ [0x9E#8, 0xA1#8]) ∨
    (opField w = 0xF ∧
      nnField w ∉ [0x07#8, 0x0A#8, 0x15#8, 0x18#8, 0x1E#8, 0x29#8, 0x33#8, 0x55#8, 0x65#8])

/-- One word of each family, written out from R94, decodes to the instruction it stands for (rows 11 to 19 and 27: log 2,
log 3). -/
def Obligations.SampleWordsDecode : Prop :=
  decode 0x00E0 = .ok .cls ∧ decode 0x00EE = .ok .ret ∧ decode 0x00EF = .ok (.sys 0x0EF) ∧
  decode 0x2ABC = .ok (.call 0xABC) ∧ decode 0xB123 = .ok (.jpV0 0x123) ∧ decode 0x5AB0 = .ok (.seReg 0xA 0xB) ∧
  decode 0x8AB6 = .ok (.shr 0xA 0xB) ∧ decode 0x73FE = .ok (.addImm 3 0xFE) ∧ decode 0xF265 = .ok (.ldVxMem 2) ∧
  decode 0xF307 = .ok (.ldVxDt 3) ∧ decode 0xD12F = .ok (.drw 1 2 0xF) ∧ decode 0xE9A1 = .ok (.sknp 9) ∧
  decode 0x5001 = .error (.unsupportedOpcode 0x5001)

/-! ## The tick -/

/-- A running block whose word at the pc decodes runs that instruction, on the state with the tick's inputs in place,
`changed` clear and both timers counted down, and answers what it answers (R120; the word's byte order is R62, in
`State.HoldsWord`; clearing `changed` is log 18, the inputs are log 21). -/
def Obligations.StepRunsDecodedInstruction : Prop :=
  ∀ (s : State) (w : Word) (i : Instr), s.Running → s.HoldsWord w → decode w = .ok i →
    step s = exec i
      { s with
        keys := s.tickInput.keys
        rnd := s.tickInput.rnd
        changed := false
        inputs := s.inputs.tail
        ticks := s.ticks + 1
        DT := if s.DT = 0 then 0 else s.DT - 1
        ST := if s.ST = 0 then 0 else s.ST - 1 }

/-- Decode by the opcode map: a word that matches no row raises UnsupportedOpcode with the word and the pc, and no
instruction runs; a word that matches one runs the instruction of the first row it matches (R129; the low nibbles of rows
11 to 19 and the split of rows 27 and 29 are log 2 and log 3). -/
def Obligations.FetchedWordIsDecodedByTheMap : Prop :=
  ∀ (s : State) (w : Word), s.Running → s.HoldsWord w →
    match firstRow w with
    | none => step s = .fault (.unsupportedOpcode w s.pc)
    | some row => ∃ i, decode w = .ok i ∧ i.rowNumber = row.number ∧ step s = exec i s.atDispatch

/-- A fetch whose second byte lies outside memory faults with no word in its report (the bound 0xFFF is the spec's
decision D4: log 8). -/
def Obligations.FetchOutOfRangeFaults : Prop :=
  ∀ s : State, s.Running → 0xFFF ≤ s.pc.toNat →
    step s = .fault (.addressOutOfRange none s.pc (max s.pc.toNat 0x1000))

/-- Every tick that does not fault replaces all 16 keys with the tick's input, before any instruction or wait resolution
reads them (R122). That a wait ends exactly where some key is held in this tick's input, on its level and not on an edge, is the
spec's decision D18 (R126: log 22). Where the inputs of the tick come from is the model's choice: the first of the inputs
already decided, where there is one (log 21). -/
def Obligations.KeySnapshotReplacesKeys : Prop :=
  (∀ s t : State, step s = .next t → t.keys = s.tickInput.keys) ∧
  (∀ (s : State) (w : Word) (i : Instr), s.Running → s.HoldsWord w → decode w = .ok i →
    s.atDispatch.keys = s.tickInput.keys ∧ step s = exec i s.atDispatch) ∧
  (∀ s t : State, s.Waiting → step s = .next t → (t.wait = false ↔ ∃ k : Fin 16, s.tickInput.keys[k] = true)) ∧
  (∀ (s : State) (k : TickInput) (rest : List TickInput), s.inputs = k :: rest → s.tickInput = k)

/-- A wait tick with no key pressed changes nothing but `keys` and `changed` (and the model's own record of the inputs)
(R125). -/
def Obligations.StallChangesOnlyKeysAndChanged : Prop :=
  ∀ s : State, s.Waiting → (∀ k : Fin 16, s.tickInput.keys[k] = false) →
    ∃ t, step s = .next t ∧ s.OnlyInputsTaken t

/-- A wait tick with a key pressed writes the least held key into the latched register, clears the latch, and does
nothing else (least index and level are the spec's decision D18: log 22; clearing `changed` is log 18). -/
def Obligations.ResolutionWritesLeastKey : Prop :=
  ∀ (s : State) (k : Fin 16), s.Waiting → s.tickInput.keys[k] = true → (∀ j : Fin 16, j < k → s.tickInput.keys[j] = false) →
    ∃ t, step s = .next t ∧
      (∀ r : Reg, t.v r = if r = s.waitReg then BitVec.ofNat 8 k.val else s.v r) ∧
      t = { s with V := t.V, wait := false, keys := s.tickInput.keys, changed := false, rnd := s.tickInput.rnd,
                   inputs := s.inputs.tail, ticks := s.ticks + 1 }

/-- The latch state machine of R127, but for its last row, which is ResolutionWritesLeastKey: after Fx0A the block waits
for that register, after any other instruction that completes it runs, after a fault it is halted with a report, and with
no key pressed it waits on (that the halted block holds the report is the spec's decision D16: log 20). -/
def Obligations.LatchStateMachine : Prop :=
  (∀ (s t : State) (w : Word) (i : Instr), s.Running → s.HoldsWord w → decode w = .ok i → step s = .next t →
    (∀ x, i = .ldVxKey x → t.Waiting ∧ t.waitReg = x) ∧ ((∀ x, i ≠ .ldVxKey x) → t.Running ∧ t.waitReg = s.waitReg)) ∧
  (∀ (s u : State) (f : Fault), s.Running → tick s = .report f u → u.fault = f.report ∧ u.fault ≠ none) ∧
  (∀ s t : State, s.Waiting → (∀ k : Fin 16, s.tickInput.keys[k] = false) → step s = .next t →
    t.Waiting ∧ t.waitReg = s.waitReg)

/-- Each timer goes down by one on an execute tick and not below 0, unless the instruction writes it; a wait tick leaves
both (R33, R34, R127, R244; that Fx15 is the write of DT is log 3). -/
def Obligations.TimersCountExecuteTicks : Prop :=
  (∀ (s t : State) (w : Word) (i : Instr), s.Running → s.HoldsWord w → decode w = .ok i → step s = .next t →
    ((∀ x, i ≠ .ldDtVx x) → t.DT.toNat = s.DT.toNat - 1) ∧ ((∀ x, i ≠ .ldStVx x) → t.ST.toNat = s.ST.toNat - 1)) ∧
  (∀ s t : State, s.Waiting → step s = .next t → t.DT = s.DT ∧ t.ST = s.ST)

/-- After a tick that does not fault, `changed` is set exactly when the tick executed 00E0 or Dxyn (that it is cleared at
the start of every tick is the spec's decision D14: log 18). -/
def Obligations.ChangedReportsThisTick : Prop :=
  ∀ s t : State, step s = .next t →
    (t.changed = true ↔ s.Running ∧ ∃ w i, s.HoldsWord w ∧ decode w = .ok i ∧ isDraw i = true)

/-- The snapshot of a tick that does not fault: the framebuffer and the flag as they stand at its end, and beep exactly
where ST is then above 0; a wait tick gives one too, with `changed` false and ST as it was (R131; that `changed` is false then
rests on its clearing at the start of every tick, the spec's decision D14: log 18). -/
def Obligations.SnapshotOfTick : Prop :=
  (∀ s t : State, step s = .next t ↔ ∃ out, tick s = .snapshot out t) ∧
  (∀ (s t : State) (out : Snapshot), tick s = .snapshot out t →
    out.fb = t.fb ∧ out.changed = t.changed ∧ (out.beep = true ↔ 0 < t.ST.toNat)) ∧
  (∀ s : State, s.Waiting → ∃ out t, tick s = .snapshot out t ∧ out.changed = false ∧ t.ST = s.ST)

/-- A block with a fault recorded takes no tick (R134, the spec's decision D16: log 33). -/
def Obligations.HaltedBlockTakesNoTick : Prop :=
  ∀ s : State, s.fault ≠ none → tick s = .noTick ∧ step s = .fault .noTick

/-- A tick that faults records its report, makes no write of the instruction, and leaves of the tick's other effects either
all or nothing of each; the block then takes no tick (R133, the spec's decision D16: log 20). -/
def Obligations.FaultingTickWritesNothing : Prop :=
  ∀ (s u : State) (f : Fault), tick s = .report f u →
    step s = .fault f ∧ u.fault = f.report ∧ s.NoInstructionWrite u ∧
    (u.keys = s.keys ∨ u.keys = s.tickInput.keys) ∧ (u.changed = s.changed ∨ u.changed = false) ∧
    ((u.DT = s.DT ∧ u.ST = s.ST) ∨ (u.DT.toNat = s.DT.toNat - 1 ∧ u.ST.toNat = s.ST.toNat - 1)) ∧
    step u = .fault .noTick

/-! ## Whole-machine rules -/

/-- Every instruction raises exactly the fault that the table of R288 lists for it, in exactly the listed case, completes in
every other case, and is never refused (the bounds and the faults of stores and keys are the spec's decisions D5, D6, D12:
log 9, log 10, log 12). -/
def Obligations.InstructionFaultsExactlyAsListed : Prop :=
  ∀ (i : Instr) (s : State),
    (∀ f, exec i s = .fault f ↔ faultOf i s = some f) ∧
    (faultOf i s = none → ∃ t, exec i s = .next t) ∧
    (∀ r, exec i s ≠ .refused r)

/-- How each instruction sets the pc, and that a wait tick leaves it (R27; that Bnnn is not masked is the spec's decision D3:
log 7, that 0nnn only advances D26: log 27, that 00EE takes the popped value as it is D27: log 28). -/
def Obligations.PcFollowsTable : Prop :=
  (∀ (i : Instr) (s t : State), exec i s = .next t → t.pc = nextPc i s) ∧
  (∀ s t : State, s.Waiting → step s = .next t → t.pc = s.pc)

/-- No instruction changes a byte of memory but LD B its three and LD [I] its x + 1 bytes from I on (R70). -/
def Obligations.MemoryFrame : Prop :=
  ∀ (i : Instr) (s t : State), exec i s = .next t →
    ∀ a : Nat, ¬ (s.I.toNat ≤ a ∧ a < s.I.toNat + storeWidth i) → Memory.read t.mem a = Memory.read s.mem a

/-- No instruction changes a general register but its destination, VF where its rule gives a flag, and V0 to Vx for
LD Vx, [I] (R21, R23; that OR, AND, XOR and MOV leave VF is log 13, that the flag of Fx1E is written is log 14). -/
def Obligations.RegisterFrame : Prop :=
  ∀ (i : Instr) (s t : State), exec i s = .next t → ∀ r : Reg, mayWriteReg i r = false → t.v r = s.v r

/-- Only 00E0 and Dxyn write the framebuffer or set `changed`, they set it whatever flips, and a Dxyn that faults does not
set it (R264). -/
def Obligations.OnlyClearAndDrawTouchFramebuffer : Prop :=
  (∀ (i : Instr) (s t : State), exec i s = .next t →
    (isDraw i = false → t.fb = s.fb ∧ t.changed = s.changed) ∧ (isDraw i = true → t.changed = true)) ∧
  (∀ (s u : State) (f : Fault), tick s = .report f u → u.fb = s.fb ∧ (u.changed = true → s.changed = true))

/-- Only 2nnn and 00EE touch the stack pointer, and only 2nnn a stack entry, the one it pushes; a pop clears nothing (R29
to R32; the last is the spec's decision D27: log 28). -/
def Obligations.OnlyCallAndReturnTouchStack : Prop :=
  ∀ (i : Instr) (s t : State), exec i s = .next t →
    (isStackUser i = false → t.sp = s.sp ∧ t.stack = s.stack) ∧
    (∀ k : Fin 16, t.stack[k] ≠ s.stack[k] → (∃ nnn, i = .call nnn) ∧ k.val = s.sp.val)

/-- Among the instructions only Annn, Fx1E and Fx29 write I, only Fx15 DT, only Fx18 ST and only Fx0A the latch; none writes
the key snapshot, the recorded fault, or the model's own input fields (R24, R33 to R36, R41; that Fx55 and Fx65 leave I is the
spec's decision D11: log 15, Fx15 is log 3, the model's own fields are log 21). -/
def Obligations.WritersOfIndexTimersAndLatch : Prop :=
  ∀ (i : Instr) (s t : State), exec i s = .next t →
    (isIndexWriter i = false → t.I = s.I) ∧
    ((∀ x, i ≠ .ldDtVx x) → t.DT = s.DT) ∧ ((∀ x, i ≠ .ldStVx x) → t.ST = s.ST) ∧
    ((∀ x, i ≠ .ldVxKey x) → t.wait = s.wait ∧ t.waitReg = s.waitReg) ∧
    t.keys = s.keys ∧ t.fault = s.fault ∧ t.rnd = s.rnd ∧ t.inputs = s.inputs ∧ t.ticks = s.ticks

/-! ## Invariants, reset and load -/

/-- Every step keeps the invariant: memory canonical, I within 12 bits, the pc at most 0x10FE, every stack entry at most 0x1000,
the largest return address (R25, R28, R153; the canonical form of memory is the model's choice: log 30, the unmasked pc is the
spec's decision D3: log 7, the kept popped entry D27: log 28). -/
def Obligations.StepKeepsInvariant : Prop :=
  ∀ s t : State, s.Inv → step s = .next t → t.Inv

/-- The invariant holds after construction with any FONT, and the font region then reads as that FONT. The state after reset is
the block constructed with the default FONT, whose bytes are log 1 (R43, R321; the canonical form of memory is the model's
choice: log 30, I = 0 is the spec's decision D15: log 19). -/
def Obligations.ResetMeetsInvariant : Prop :=
  State.reset.Inv ∧ State.reset.FontIntact defaultFont ∧ State.construct defaultFont = State.reset ∧
  ∀ f : Font, (State.construct f).Inv ∧ (State.construct f).FontIntact f

/-- No step changes a byte of the font region, from any state (R66; that a store there faults is the spec's decision D6:
log 10). -/
def Obligations.StepKeepsFontRegion : Prop :=
  ∀ s t : State, step s = .next t → ∀ a < 0x050, Memory.read t.mem a = Memory.read s.mem a

/-- The state after construction by the table of R43, for every value of the parameter FONT (R321): FONT's 80 bytes in the font
region, and every other item; the state after reset has the default FONT, whose bytes are log 1. Writing the FONT touches
nothing beyond its region, so doing it twice is doing it once (R320). I, keys, the latch, the framebuffer and `changed` are
the spec's decision D15 (log 19), `fault` is D16 (log 33). -/
def Obligations.ConstructionState : Prop :=
  (font.length = 80 ∧ ∀ a < 0x050, Memory.read State.reset.mem a = font.getD a 0) ∧
  (∀ s : State, (∃ f, s = State.construct f) ∨ s = State.reset →
    (∀ a, 0x050 ≤ a → Memory.read s.mem a = 0) ∧ (∀ r : Reg, s.v r = 0) ∧ s.I = 0 ∧ s.pc = 0x200 ∧ s.sp = 0 ∧
    (∀ k : Fin 16, s.stack[k] = 0) ∧ s.DT = 0 ∧ s.ST = 0 ∧ (∀ k : Fin 16, s.keys[k] = false) ∧ s.wait = false ∧
    s.waitReg = 0 ∧ (∀ Y X, s.fb.cell Y X = false) ∧ s.changed = false ∧ s.fault = none) ∧
  (∀ f : Font, ∀ a < 0x050, Memory.read (State.construct f).mem a = f.toList.getD a 0) ∧
  (∀ (s : State) (f : Font),
    s.init f = { s with mem := (s.init f).mem } ∧
    (∀ a, 0x050 ≤ a → Memory.read (s.init f).mem a = Memory.read s.mem a) ∧
    ∀ a, Memory.read ((s.init f).init f).mem a = Memory.read (s.init f).mem a)

/-- Program load: up to 3584 bytes are copied to 0x200 on and nothing else changes; a longer program is refused with
LoadTooLarge (R322; the bound is the spec's decision D25: log 26). -/
def Obligations.LoadCopiesProgram : Prop :=
  ∀ (s : State) (p : List Byte),
    (p.length ≤ 3584 → ∃ t, s.load p = .next t ∧
      (∀ k < p.length, Memory.read t.mem (0x200 + k) = p.getD k 0) ∧
      (∀ a, a < 0x200 ∨ 0x200 + p.length ≤ a → Memory.read t.mem a = Memory.read s.mem a) ∧ t = { s with mem := t.mem }) ∧
    (3584 < p.length → s.load p = .fault .loadTooLarge)

/-- The first tick of a constructed and loaded block executes the word at 0x200, whatever FONT it was constructed with (R321) and
whatever program was loaded: that word is the program's first two bytes, the first of them its high byte, with 0 for a byte that the program does not have. A load of no
bytes leaves a no-op there (R62, R324; how a program comes to run is log 26, the no-op is log 27). -/
def Obligations.FirstTickExecutesLoadedWord : Prop :=
  (∀ (s : State) (p : List Byte) (t : State), (∃ f, s = State.construct f) ∨ s = State.reset → s.load p = .next t →
    t.pc = 0x200 ∧
    (∀ w : Word, w.toNat = 256 * (p.getD 0 0).toNat + (p.getD 1 0).toNat ↔ t.HoldsWord w) ∧
    (∀ (w : Word) (i : Instr),
      w.toNat = 256 * (Memory.read t.mem 0x200).toNat + (Memory.read t.mem 0x201).toNat → decode w = .ok i →
        step t = exec i t.atDispatch)) ∧
  (∀ s t : State, (∃ f, s = State.construct f) ∨ s = State.reset → s.load [] = .next t →
    step t = exec (.sys 0) t.atDispatch)

/-! ## Control flow -/

/-- 00EE: with a return address on the stack the pc becomes it and the stack pointer goes down by one; with none the
instruction faults and the pc and the stack pointer stay (R150; that the popped entry stays is the spec's decision D27:
log 28). -/
def Obligations.ReturnPops : Prop :=
  decode 0x00EE = .ok .ret ∧
  (∀ s : State, 0 < s.sp.val → ∃ t, exec .ret s = .next t ∧ t.sp.val = s.sp.val - 1 ∧
    (∀ k : Fin 16, k.val + 1 = s.sp.val → t.pc = s.stack[k]) ∧ t = { s with pc := t.pc, sp := t.sp }) ∧
  (∀ s : State, s.sp.val = 0 → exec .ret s = .fault (.stackUnderflow 0x00EE s.pc)) ∧
  (∀ (s u : State) (f : Fault), tick s = .report f u → u.pc = s.pc ∧ u.sp = s.sp)

/-- 0nnn only advances the pc (R151, the spec's decision D26: log 27). -/
def Obligations.SysIsNoOperation : Prop :=
  ∀ (nnn : Addr12) (s : State), exec (.sys nnn) s = .next { s with pc := s.pc + 2 }

/-- 1nnn sets the pc to nnn, odd or even, and nothing else (R152). -/
def Obligations.JumpSetsPc : Prop :=
  ∀ nnn : Addr12, decode (0x1#4 ++ nnn) = .ok (.jp nnn) ∧
    ∀ s : State, exec (.jp nnn) s = .next { s with pc := nnn.setWidth 16 }

/-- 2nnn pushes the address of the word after the call and jumps; on a full stack it faults (R153, with the width of an
entry the spec's decision D27: log 28). -/
def Obligations.CallPushesReturnAddress : Prop :=
  ∀ (nnn : Addr12) (s : State),
    (s.sp.val < 16 → ∃ t, exec (.call nnn) s = .next t ∧ t.pc = nnn.setWidth 16 ∧ t.sp.val = s.sp.val + 1 ∧
      (∀ k : Fin 16, t.stack[k] = if k.val = s.sp.val then s.pc + 2 else s.stack[k]) ∧
      t = { s with pc := t.pc, sp := t.sp, stack := t.stack }) ∧
    (s.sp.val = 16 → exec (.call nnn) s = .fault (.stackOverflow (0x2#4 ++ nnn) s.pc))

/-- A call followed by a return comes back to the word after the call, with the stack pointer as before, whatever else the
subroutine changed (R150 and R153; log 28). -/
def Obligations.ReturnFollowsCall : Prop :=
  ∀ (nnn : Addr12) (s t u : State), exec (.call nnn) s = .next t → u.sp = t.sp → u.stack = t.stack →
    ∃ r, exec .ret u = .next r ∧ r.pc = s.pc + 2 ∧ r.sp = s.sp

/-- Bnnn sets the pc to the exact sum V[0] + nnn, not masked to 12 bits (R154, the spec's decision D3: log 7). -/
def Obligations.JumpPlusV0 : Prop :=
  ∀ (nnn : Addr12) (s : State), ∃ t, exec (.jpV0 nnn) s = .next t ∧ t.pc.toNat = (s.v 0).toNat + nnn.toNat ∧
    t = { s with pc := t.pc }

/-- 3xnn skips where V[x] is nn, 4xnn where it is not; nothing but the pc changes (R155, R156). -/
def Obligations.SkipOnImmediate : Prop :=
  ∀ (x : Reg) (nn : Byte),
    decode (0x3#4 ++ regBits x ++ nn) = .ok (.seImm x nn) ∧ decode (0x4#4 ++ regBits x ++ nn) = .ok (.sneImm x nn) ∧
    ∀ s : State,
      exec (.seImm x nn) s = .next { s with pc := if s.v x = nn then s.pc + 4 else s.pc + 2 } ∧
      exec (.sneImm x nn) s = .next { s with pc := if s.v x ≠ nn then s.pc + 4 else s.pc + 2 }

/-- 5xy0 skips where V[x] is V[y], 9xy0 where it is not; nothing but the pc changes, and the words with another low nibble
are illegal (R157, R158). -/
def Obligations.SkipOnRegisters : Prop :=
  (∀ x y : Reg,
    decode (0x5#4 ++ regBits x ++ regBits y ++ 0x0#4) = .ok (.seReg x y) ∧
    decode (0x9#4 ++ regBits x ++ regBits y ++ 0x0#4) = .ok (.sneReg x y) ∧
    ∀ s : State,
      exec (.seReg x y) s = .next { s with pc := if s.v x = s.v y then s.pc + 4 else s.pc + 2 } ∧
      exec (.sneReg x y) s = .next { s with pc := if s.v x ≠ s.v y then s.pc + 4 else s.pc + 2 }) ∧
  (∀ (x y : Reg) (n : Nibble), n ≠ 0 →
    decode (0x5#4 ++ regBits x ++ regBits y ++ n) = .error (.unsupportedOpcode (0x5#4 ++ regBits x ++ regBits y ++ n)) ∧
    decode (0x9#4 ++ regBits x ++ regBits y ++ n) = .error (.unsupportedOpcode (0x9#4 ++ regBits x ++ regBits y ++ n)))

/-- Ex9E skips where the key V[x] is held, ExA1 where it is not; a register that numbers no key faults (R159, R160, the
spec's decision D12: log 12). -/
def Obligations.SkipOnKey : Prop :=
  ∀ (x : Reg) (s : State),
    (∀ k : Fin 16, (s.v x).toNat = k.val →
      exec (.skp x) s = .next { s with pc := if s.keys[k] then s.pc + 4 else s.pc + 2 } ∧
      exec (.sknp x) s = .next { s with pc := if s.keys[k] then s.pc + 2 else s.pc + 4 }) ∧
    (16 ≤ (s.v x).toNat →
      exec (.skp x) s = .fault (.keyIndexOutOfRange (encode (.skp x)) s.pc) ∧
      exec (.sknp x) s = .fault (.keyIndexOutOfRange (encode (.sknp x)) s.pc))

/-! ## ALU -/

/-- 6xnn: V[x] becomes nn; VF changes only where x is F (R182). -/
def Obligations.LoadImmediate : Prop :=
  ∀ (x : Reg) (nn : Byte), decode (0x6#4 ++ regBits x ++ nn) = .ok (.ldImm x nn) ∧
    ∀ s : State, ∃ t, exec (.ldImm x nn) s = .next t ∧ (∀ r : Reg, t.v r = if r = x then nn else s.v r) ∧
      t = { s with V := t.V, pc := s.pc + 2 }

/-- 7xnn: V[x] becomes the sum mod 256, and no flag is written (R183). -/
def Obligations.AddImmediateWithoutFlag : Prop :=
  ∀ (x : Reg) (nn : Byte), decode (0x7#4 ++ regBits x ++ nn) = .ok (.addImm x nn) ∧
    ∀ s : State, ∃ t, exec (.addImm x nn) s = .next t ∧ (t.v x).toNat = ((s.v x).toNat + nn.toNat) % 256 ∧
      (∀ r : Reg, r ≠ x → t.v r = s.v r) ∧ t = { s with V := t.V, pc := s.pc + 2 }

/-- 8xy0 to 8xy3: V[x] becomes V[y], or the OR, AND or XOR of both, and no other register changes, VF included (R184 to
R187; that VF is left is the spec's decision D9: log 13). -/
def Obligations.MoveAndLogic : Prop :=
  ∀ (x y : Reg) (s : State) (i : Instr) (b : Byte),
    (i = .movReg x y ∧ b = s.v y) ∨ (i = .orReg x y ∧ b = s.v x ||| s.v y) ∨
      (i = .andReg x y ∧ b = s.v x &&& s.v y) ∨ (i = .xorReg x y ∧ b = s.v x ^^^ s.v y) →
    ∃ t, exec i s = .next t ∧ (∀ r : Reg, t.v r = if r = x then b else s.v r) ∧ t = { s with V := t.V, pc := s.pc + 2 }

/-- 8xy4: V[x] becomes the sum mod 256 and VF the carry, written last (R188; that the flag is last is the spec's decision
D8: log 16). -/
def Obligations.AddWithCarry : Prop :=
  ∀ (x y : Reg) (s : State), ∃ t, exec (.addReg x y) s = .next t ∧
    (∀ r : Reg, t.v r = if r = 0xF then (if 255 < (s.v x).toNat + (s.v y).toNat then 1 else 0)
      else if r = x then BitVec.ofNat 8 (((s.v x).toNat + (s.v y).toNat) % 256) else s.v r) ∧
    t = { s with V := t.V, pc := s.pc + 2 }

/-- 8xy5 and 8xy7: V[x] becomes the difference mod 256 and VF is 1 where no borrow occurred, written last (R189, R191; the
order of SUBN's operands is log 4, the order of the writes is the spec's decision D8: log 16). -/
def Obligations.SubtractWithNotBorrow : Prop :=
  ∀ (x y : Reg) (s : State),
    (∃ t, exec (.subReg x y) s = .next t ∧
      (∀ r : Reg, t.v r = if r = 0xF then (if (s.v y).toNat ≤ (s.v x).toNat then 1 else 0)
        else if r = x then BitVec.ofInt 8 (((s.v x).toNat : Int) - (s.v y).toNat) else s.v r) ∧
      t = { s with V := t.V, pc := s.pc + 2 }) ∧
    (∃ t, exec (.subn x y) s = .next t ∧
      (∀ r : Reg, t.v r = if r = 0xF then (if (s.v x).toNat ≤ (s.v y).toNat then 1 else 0)
        else if r = x then BitVec.ofInt 8 (((s.v y).toNat : Int) - (s.v x).toNat) else s.v r) ∧
      t = { s with V := t.V, pc := s.pc + 2 })

/-- 8xy6 and 8xyE: V[x] is shifted by one bit and VF becomes the bit shifted out, written last; V[y] plays no part (R190,
R192; the shifted register is the spec's decision D7: log 11, the order of the writes D8: log 16). -/
def Obligations.ShiftByOne : Prop :=
  ∀ (x y : Reg) (s : State),
    (∃ t, exec (.shr x y) s = .next t ∧
      (∀ r : Reg, t.v r = if r = 0xF then BitVec.ofNat 8 ((s.v x).toNat % 2)
        else if r = x then BitVec.ofNat 8 ((s.v x).toNat / 2) else s.v r) ∧ t = { s with V := t.V, pc := s.pc + 2 }) ∧
    (∃ t, exec (.shl x y) s = .next t ∧
      (∀ r : Reg, t.v r = if r = 0xF then BitVec.ofNat 8 ((s.v x).toNat / 128)
        else if r = x then BitVec.ofNat 8 ((s.v x).toNat * 2 % 256) else s.v r) ∧ t = { s with V := t.V, pc := s.pc + 2 })

/-- Cxnn: V[x] becomes the tick's random byte under the mask nn, whatever that byte is (R193; the byte is a free input of
the tick: log 21). -/
def Obligations.RandomUnderMask : Prop :=
  ∀ (x : Reg) (nn : Byte) (s : State), ∃ t, exec (.rnd x nn) s = .next t ∧
    (∀ r : Reg, t.v r = if r = x then s.rnd &&& nn else s.v r) ∧ t = { s with V := t.V, pc := s.pc + 2 }

/-! ## Index register and memory -/

/-- Annn: I becomes nnn (R210). -/
def Obligations.LoadIndex : Prop :=
  ∀ nnn : Addr12, decode (0xA#4 ++ nnn) = .ok (.ldI nnn) ∧
    ∀ s : State, exec (.ldI nnn) s = .next { s with I := nnn.setWidth 16, pc := s.pc + 2 }

/-- Fx1E: I becomes the sum's low 12 bits, and VF is 1 exactly where the sum is past 0xFFF. Under the parameter's other values
I is the same, set_only writes VF only on overflow and none never writes it (R211; set_or_clear is the spec's default, decision
D10: log 14). -/
def Obligations.AddToIndex : Prop :=
  ∀ (x : Reg) (s : State),
    (∃ t, exec (.addIVx x) s = .next t ∧
      t.I.toNat = (s.I.toNat + (s.v x).toNat) % 0x1000 ∧
      (∀ r : Reg, t.v r = if r = 0xF then (if 0xFFF < s.I.toNat + (s.v x).toNat then 1 else 0) else s.v r) ∧
      t = { s with I := t.I, V := t.V, pc := s.pc + 2 }) ∧
    (∀ r : Reg, (s.addIndex .setOnly x).v r = if r = 0xF ∧ 0xFFF < s.I.toNat + (s.v x).toNat then 1 else s.v r) ∧
    (∀ r : Reg, (s.addIndex .none x).v r = s.v r) ∧
    (∀ p : Fx1ePolicy, (s.addIndex p x).I.toNat = (s.I.toNat + (s.v x).toNat) % 0x1000)

/-- Fx29: I becomes V[x] * 5, of the full byte (R212, the spec's decision D13: log 17). -/
def Obligations.IndexOfGlyph : Prop :=
  ∀ (x : Reg) (s : State), ∃ t, exec (.ldFontVx x) s = .next t ∧ t.I.toNat = (s.v x).toNat * 5 ∧
    t = { s with I := t.I, pc := s.pc + 2 }

/-- Fx33: the hundreds, tens and units of V[x] at I, I+1 and I+2, in plain memory below its end and above the font; every
other byte and all else is left (R213; the excluded stores fault by the spec's decisions D5 and D6: log 9, log 10). -/
def Obligations.StoreDecimalDigits : Prop :=
  ∀ (x : Reg) (s : State), 0x050 ≤ s.I.toNat → s.I.toNat + 2 < 0x1000 →
    ∃ t, exec (.ldBcdVx x) s = .next t ∧
      (Memory.read t.mem s.I.toNat).toNat = (s.v x).toNat / 100 ∧
      (Memory.read t.mem (s.I.toNat + 1)).toNat = (s.v x).toNat / 10 % 10 ∧
      (Memory.read t.mem (s.I.toNat + 2)).toNat = (s.v x).toNat % 10 ∧
      (∀ a, a < s.I.toNat ∨ s.I.toNat + 2 < a → Memory.read t.mem a = Memory.read s.mem a) ∧
      t = { s with mem := t.mem, pc := s.pc + 2 }

/-- Fx55: V[0] to V[x] at I to I+x, in plain memory below its end and above the font; every other byte, I and all else are
left (R214; I by the spec's decision D11: log 15, the excluded stores by D5 and D6: log 9, log 10). -/
def Obligations.StoreRegisters : Prop :=
  ∀ (x : Reg) (s : State), 0x050 ≤ s.I.toNat → s.I.toNat + x.val < 0x1000 →
    ∃ t, exec (.ldMemVx x) s = .next t ∧
      (∀ r : Reg, r ≤ x → Memory.read t.mem (s.I.toNat + r.val) = s.v r) ∧
      (∀ a, a < s.I.toNat ∨ s.I.toNat + x.val < a → Memory.read t.mem a = Memory.read s.mem a) ∧
      t = { s with mem := t.mem, pc := s.pc + 2 }

/-- Fx65: V[0] to V[x] from I to I+x, the font region included; the other registers, I and all else are left (R215; I by the
spec's decision D11: log 15, the range by D5: log 9). -/
def Obligations.LoadRegisters : Prop :=
  ∀ (x : Reg) (s : State), s.I.toNat + x.val < 0x1000 →
    ∃ t, exec (.ldVxMem x) s = .next t ∧
      (∀ r : Reg, t.v r = if r ≤ x then Memory.read s.mem (s.I.toNat + r.val) else s.v r) ∧
      t = { s with V := t.V, pc := s.pc + 2 }

/-- A dump by Fx55 followed by a load by Fx65 with the same x and I brings back V[0] to V[x], whatever became of the
registers between (R214 and R215, the source's round trip; log 15). -/
def Obligations.DumpThenLoadRestores : Prop :=
  ∀ (x : Reg) (s t u : State), exec (.ldMemVx x) s = .next t → u.mem = t.mem → u.I = t.I →
    ∃ w, exec (.ldVxMem x) u = .next w ∧ ∀ r : Reg, r ≤ x → w.v r = s.v r

/-! ## Timers and key wait -/

/-- Fx07: V[x] becomes DT as it stands. Fx15: DT becomes V[x], over the countdown of the same tick (R240, R241; which of the two
reads and which writes is log 3). -/
def Obligations.DelayTimerTransfers : Prop :=
  ∀ (x : Reg) (s : State),
    (∃ t, exec (.ldVxDt x) s = .next t ∧ (∀ r : Reg, t.v r = if r = x then s.DT else s.v r) ∧
      t = { s with V := t.V, pc := s.pc + 2 }) ∧
    exec (.ldDtVx x) s = .next { s with DT := s.v x, pc := s.pc + 2 } ∧
    (∀ t, s.Running → s.HoldsWord (encode (.ldDtVx x)) → step s = .next t → t.DT = s.v x)

/-- Fx18: ST becomes V[x], and the snapshot of the same tick beeps exactly where that is above 0 (R242). -/
def Obligations.WriteSoundTimer : Prop :=
  ∀ (x : Reg) (s : State), exec (.ldStVx x) s = .next { s with ST := s.v x, pc := s.pc + 2 } ∧
    ∀ out t, s.Running → s.HoldsWord (encode (.ldStVx x)) → tick s = .snapshot out t →
      (out.beep = true ↔ 0 < (s.v x).toNat)

/-- Fx0A: sets the latch for x and moves the pc on, looking at no key and writing no register; while the latch is set a tick
moves neither the pc nor a timer (R243, but for its words that no instruction executes then: what a wait tick leaves in full is
StallChangesOnlyKeysAndChanged and ResolutionWritesLeastKey). -/
def Obligations.KeyWaitSetsLatch : Prop :=
  ∀ x : Reg, decode (0xF#4 ++ regBits x ++ 0x0A#8) = .ok (.ldVxKey x) ∧
    (∀ s : State, exec (.ldVxKey x) s = .next { s with wait := true, waitReg := x, pc := s.pc + 2 }) ∧
    (∀ s t : State, s.Running → s.HoldsWord (0xF#4 ++ regBits x ++ 0x0A#8) → step s = .next t →
      t.Waiting ∧ t.waitReg = x ∧ t.pc = s.pc + 2 ∧ t.V = s.V) ∧
    (∀ s t : State, s.Waiting → step s = .next t → t.pc = s.pc ∧ t.DT = s.DT ∧ t.ST = s.ST)

/-! ## Display -/

/-- 00E0: every cell becomes 0 and `changed` is set, even if every cell was 0 already; VF and all else are left (R261). -/
def Obligations.ClearScreen : Prop :=
  decode 0x00E0 = .ok .cls ∧
  ∀ s : State, ∃ t, exec .cls s = .next t ∧ (∀ Y X, t.fb.cell Y X = false) ∧
    t = { s with fb := t.fb, changed := true, pc := s.pc + 2 }

/-- Dxyn: every cell becomes the XOR of what it was and the sprite bit that falls on it, the coordinates wrapping; VF is 1
exactly where a set cell met a set bit; `changed` is set; n may be 0 (R262, R263; coordinates read before VF is written are
the spec's decision D8: log 16, the range is D5: log 9). -/
def Obligations.DrawXorsSprite : Prop :=
  ∀ (x y : Reg) (n : Nibble) (s : State), n = 0 ∨ s.I.toNat + n.toNat ≤ 0x1000 →
    ∃ t, exec (.drw x y n) s = .next t ∧
      (∀ Y X, t.fb.cell Y X =
        (s.fb.cell Y X ^^ spriteBit (s.spriteRows n) (s.v x).toNat (s.v y).toNat Y X)) ∧
      ((∃ Y X, s.fb.cell Y X = true ∧ spriteBit (s.spriteRows n) (s.v x).toNat (s.v y).toNat Y X = true) → t.v 0xF = 1) ∧
      ((∀ Y X, s.fb.cell Y X = true → spriteBit (s.spriteRows n) (s.v x).toNat (s.v y).toNat Y X = false) → t.v 0xF = 0) ∧
      (∀ r : Reg, r ≠ 0xF → t.v r = s.v r) ∧
      t = { s with fb := t.fb, V := t.V, changed := true, pc := s.pc + 2 }

/-- Drawing the same sprite twice at the same place brings the framebuffer back (R262, the source's self-collision example;
the coordinates are not in VF, which the draw writes last: log 16). -/
def Obligations.DrawTwiceRestores : Prop :=
  ∀ (x y : Reg) (n : Nibble) (s t : State), x ≠ 0xF → y ≠ 0xF → exec (.drw x y n) s = .next t →
    ∃ u, exec (.drw x y n) t = .next u ∧ u.fb = s.fb

/-! ## Reports -/

/-- What the report of each fault holds: the kind, the word, the pc and the address by the last column of the table of R288,
with the codes 1 to 7. The load error has no report. The report that a faulting tick records has the pc of the instruction,
the word that stood there unless the fetch failed, and an address exactly for the two kinds that have one (R280, R288; the
fields and the codes are the spec's decision D22: log 32, that the report is kept in the block D16: log 20). -/
def Obligations.ReportOfEachFault : Prop :=
  (∀ (w p : Word) (fetched : Option Word) (a : Nat),
    (Fault.unsupportedOpcode w p).report = some { kind := .unsupportedOpcode, word := some w, pc := p, addr := none } ∧
    (Fault.stackOverflow w p).report = some { kind := .stackOverflow, word := some w, pc := p, addr := none } ∧
    (Fault.stackUnderflow w p).report = some { kind := .stackUnderflow, word := some w, pc := p, addr := none } ∧
    (Fault.addressOutOfRange fetched p a).report =
      some { kind := .addressOutOfRange, word := fetched, pc := p, addr := some a } ∧
    (Fault.protectedWrite w p a).report = some { kind := .protectedWrite, word := some w, pc := p, addr := some a } ∧
    (Fault.keyIndexOutOfRange w p).report = some { kind := .keyIndexOutOfRange, word := some w, pc := p, addr := none } ∧
    Fault.loadTooLarge.report = none) ∧
  (FaultKind.unsupportedOpcode.code = 1 ∧ FaultKind.stackOverflow.code = 2 ∧ FaultKind.stackUnderflow.code = 3 ∧
    FaultKind.addressOutOfRange.code = 4 ∧ FaultKind.protectedWrite.code = 5 ∧ FaultKind.keyIndexOutOfRange.code = 6 ∧
    FaultKind.loadTooLarge.code = 7) ∧
  (∀ (s u : State) (f : Fault), tick s = .report f u →
    ∃ r, u.fault = some r ∧ f.report = some r ∧ r.pc = s.pc ∧
      (r.word = none ↔ 0xFFF ≤ s.pc.toNat) ∧ (∀ w, r.word = some w → s.HoldsWord w) ∧
      (r.addr ≠ none ↔ r.kind = .addressOutOfRange ∨ r.kind = .protectedWrite))
end

