-- ==== Sys2Proof/Laws/Decode.lean ====
section
/-! SUPPORT. The fields of a word built from its pattern (spec/30_encoding.md R91), and the one way the decoder
refuses a word (R96). -/

namespace Sys2Proof

@[simp] theorem toFin_regBits (x : Reg) : (regBits x).toFin = x := rfl

/-- The high part of a concatenation. -/
theorem extract_high {v w : Nat} (a : BitVec v) (b : BitVec w) : (a ++ b).extractLsb' w v = a := by
  ext i hi
  simp [BitVec.getElem_extractLsb', BitVec.getLsbD_append, hi]

/-- The low part of a concatenation. -/
theorem extract_low {v w : Nat} (a : BitVec v) (b : BitVec w) : (a ++ b).extractLsb' 0 w = b := by
  ext i hi
  simp [BitVec.getElem_extractLsb', BitVec.getLsbD_append, hi]

/-- The word of two bytes as a number: the first byte is the high one (R62). -/
theorem toNat_wordOfBytes (hi lo : Byte) : (wordOfBytes hi lo).toNat = 256 * hi.toNat + lo.toNat := by
  have := lo.isLt
  rw [wordOfBytes, BitVec.toNat_append, ← Nat.shiftLeft_add_eq_or_of_lt this, Nat.shiftLeft_eq]
  omega

/-- A field above the low part of a concatenation. -/
theorem extract_above {v w : Nat} (a : BitVec v) (b : BitVec w) (k len : Nat) :
    (a ++ b).extractLsb' (w + k) len = a.extractLsb' k len := by
  ext i hi
  simp [BitVec.getElem_extractLsb', BitVec.getLsbD_append, Nat.add_assoc]

section Op12
variable (o : Nibble) (nnn : Addr12)

@[simp] theorem opField_op12 : opField (o ++ nnn : BitVec (4 + 12)) = o := extract_high o nnn

@[simp] theorem nnnField_op12 : nnnField (o ++ nnn : BitVec (4 + 12)) = nnn := extract_low o nnn

end Op12

section Op48
variable (o : Nibble) (x : Reg) (nn : Byte)

@[simp] theorem opField_op48 : opField (o ++ regBits x ++ nn : BitVec (4 + 4 + 8)) = o :=
  (extract_above (o ++ regBits x) nn 4 4).trans (extract_high o (regBits x))

@[simp] theorem xField_op48 : xField (o ++ regBits x ++ nn : BitVec (4 + 4 + 8)) = x :=
  congrArg BitVec.toFin ((extract_above (o ++ regBits x) nn 0 4).trans (extract_low o (regBits x)))

@[simp] theorem nnField_op48 : nnField (o ++ regBits x ++ nn : BitVec (4 + 4 + 8)) = nn :=
  extract_low (o ++ regBits x) nn

end Op48

section Op444
variable (o : Nibble) (x y : Reg) (n : Nibble)

@[simp] theorem opField_op444 : opField (o ++ regBits x ++ regBits y ++ n : BitVec (4 + 4 + 4 + 4)) = o :=
  (extract_above (o ++ regBits x ++ regBits y) n 8 4).trans
    ((extract_above (o ++ regBits x) (regBits y) 4 4).trans (extract_high o (regBits x)))

@[simp] theorem xField_op444 : xField (o ++ regBits x ++ regBits y ++ n : BitVec (4 + 4 + 4 + 4)) = x :=
  congrArg BitVec.toFin ((extract_above (o ++ regBits x ++ regBits y) n 4 4).trans
    ((extract_above (o ++ regBits x) (regBits y) 0 4).trans (extract_low o (regBits x))))

@[simp] theorem yField_op444 : yField (o ++ regBits x ++ regBits y ++ n : BitVec (4 + 4 + 4 + 4)) = y :=
  congrArg BitVec.toFin ((extract_above (o ++ regBits x ++ regBits y) n 0 4).trans
    (extract_low (o ++ regBits x) (regBits y)))

@[simp] theorem nField_op444 : nField (o ++ regBits x ++ regBits y ++ n : BitVec (4 + 4 + 4 + 4)) = n :=
  extract_low (o ++ regBits x ++ regBits y) n

end Op444

/-! ## A word is its fields side by side -/

/-- Two adjacent fields are one field. -/
theorem join_fields {n : Nat} (w : BitVec n) (k a b : Nat) :
    (w.extractLsb' (k + b) a ++ w.extractLsb' k b : BitVec (a + b)) = w.extractLsb' k (a + b) := by
  apply BitVec.eq_of_getLsbD_eq
  intro i hi
  rw [BitVec.getLsbD_append, BitVec.getLsbD_extractLsb', BitVec.getLsbD_extractLsb', BitVec.getLsbD_extractLsb']
  by_cases h : i < b
  · simp [h, hi]
  · have hsum : k + b + (i - b) = k + i := by omega
    simp [h, hi, hsum, show i - b < a by omega]

/-- A word is its field of all 16 bits. -/
theorem whole_word (w : Word) : w.extractLsb' 0 16 = w := by
  apply BitVec.eq_of_getLsbD_eq
  intro i hi
  rw [BitVec.getLsbD_extractLsb']
  simp [hi]

theorem join_op12 (w : Word) : (opField w ++ nnnField w : BitVec (4 + 12)) = w :=
  (join_fields w 0 4 12).trans (whole_word w)

theorem join_op48 (w : Word) : (opField w ++ regBits (xField w) ++ nnField w : BitVec (4 + 4 + 8)) = w := by
  have h : (opField w ++ regBits (xField w) : BitVec (4 + 4)) = w.extractLsb' 8 8 := join_fields w 8 4 4
  rw [h]
  exact (join_fields w 0 8 8).trans (whole_word w)

theorem join_op444 (w : Word) :
    (opField w ++ regBits (xField w) ++ regBits (yField w) ++ nField w : BitVec (4 + 4 + 4 + 4)) = w := by
  have h : (opField w ++ regBits (xField w) : BitVec (4 + 4)) = w.extractLsb' 8 8 := join_fields w 8 4 4
  have h' : (w.extractLsb' 8 8 ++ regBits (yField w) : BitVec (8 + 4)) = w.extractLsb' 4 12 := join_fields w 4 8 4
  rw [h, h']
  exact (join_fields w 0 12 4).trans (whole_word w)

/-- The decoder refuses a word only as an unsupported opcode, and names the word. -/
theorem decode_error {w : Word} {e : DecodeError} (h : decode w = .error e) : e = .unsupportedOpcode w := by
  simp only [decode, decodeOp8, decodeOpE, decodeOpF] at h
  repeat' split at h
  all_goals first
    | (injection h with h; exact h.symm)
    | cases h

end Sys2Proof
end

