-- ==== Sys2Proof/Laws/Display.lean ====
section
/-! SUPPORT. The cells of the framebuffer after a blank and after one sprite bit (spec/45_display.md). -/

namespace Sys2Proof.Machine

@[simp] theorem cell_blank (Y : Fin Config.fbH) (X : Fin Config.fbW) : Framebuffer.blank.cell Y X = false := by
  simp [Framebuffer.cell, Framebuffer.blank]

/-- Flipping a cell changes that cell and no other. -/
@[simp] theorem cell_flip (fb : Framebuffer) (Y Y' : Fin Config.fbH) (X X' : Fin Config.fbW) :
    (fb.flip Y X).cell Y' X' = if Y' = Y ∧ X' = X then !fb.cell Y X else fb.cell Y' X' := by
  simp only [Framebuffer.cell, Framebuffer.flip, Fin.getElem_fin, Vector.getElem_set, Fin.ext_iff]
  by_cases hY : Y.val = Y'.val
  · by_cases hX : X.val = X'.val
    · simp [hY, hX]
    · simp [hY, hX, Ne.symm hX]
  · simp [hY, Ne.symm hY]

/-- One sprite bit XORs into its own cell and leaves the others. -/
theorem cell_drawBit (cv : Canvas) (Y Y' : Fin Config.fbH) (X X' : Fin Config.fbW) (bit : Bool) :
    (drawBit cv Y X bit).fb.cell Y' X' = (cv.fb.cell Y' X' ^^ (bit && (decide (Y' = Y) && decide (X' = X)))) := by
  cases bit
  · simp [drawBit]
  · by_cases h : Y' = Y ∧ X' = X
    · obtain ⟨rfl, rfl⟩ := h
      simp [drawBit]
    · rcases not_and_or.mp h with h' | h' <;> simp [drawBit, h']

/-- One sprite bit collides where it falls on a set cell. -/
theorem coll_drawBit (cv : Canvas) (Y : Fin Config.fbH) (X : Fin Config.fbW) (bit : Bool) :
    (drawBit cv Y X bit).coll = (cv.coll || (bit && cv.fb.cell Y X)) := by
  cases bit <;> simp [drawBit]

end Sys2Proof.Machine
end

