-- ==== Sys2Proof/Laws/Memory.lean ====
section
/-! SUPPORT. Memory: a read gives the last byte written there (R75), a write leaves every other address alone (R71),
and every operation keeps the canonical form. -/

namespace Sys2Proof.Machine

theorem read_erase_same (m : Memory) (a : Nat) : Memory.read (Memory.erase m a) a = Memory.initial a := by
  induction m with
  | nil => rfl
  | cons c m ih =>
    obtain ⟨k, v⟩ := c
    by_cases h : k = a
    · simpa [Memory.erase, h] using ih
    · simpa [Memory.erase, h, Memory.read] using ih

theorem read_erase_ne (m : Memory) {a q : Nat} (h : q ≠ a) : Memory.read (Memory.erase m a) q = Memory.read m q := by
  induction m with
  | nil => rfl
  | cons c m ih =>
    obtain ⟨k, v⟩ := c
    by_cases hk : k = a
    · simpa [Memory.erase, hk, Memory.read, Ne.symm h] using ih
    · by_cases hq : k = q <;> simp_all [Memory.erase, Memory.read]

theorem read_insert_same (m : Memory) (a : Nat) (b : Byte) (h : ∀ c ∈ m, c.1 ≠ a) :
    Memory.read (Memory.insert m a b) a = b := by
  induction m with
  | nil => simp [Memory.insert, Memory.read]
  | cons c m ih =>
    obtain ⟨k, v⟩ := c
    have hk : k ≠ a := h (k, v) (by simp)
    by_cases ha : a < k
    · simp [Memory.insert, ha, Memory.read]
    · simp [Memory.insert, ha, Memory.read, hk, ih (fun c hc => h c (by simp [hc]))]

theorem read_insert_ne (m : Memory) {a q : Nat} (b : Byte) (h : q ≠ a) :
    Memory.read (Memory.insert m a b) q = Memory.read m q := by
  induction m with
  | nil => simp [Memory.insert, Memory.read, Ne.symm h]
  | cons c m ih =>
    obtain ⟨k, v⟩ := c
    by_cases ha : a < k
    · simp [Memory.insert, ha, Memory.read, Ne.symm h]
    · simp only [Memory.insert, if_neg ha, Memory.read, ih]

theorem mem_erase {m : Memory} {a : Nat} {c : Host.Cell} : c ∈ Memory.erase m a ↔ c ∈ m ∧ c.1 ≠ a := by
  simp [Memory.erase]

/-- A read after a write to the same address gives the byte written. -/
@[simp] theorem read_write_same (m : Memory) (a : Nat) (b : Byte) : Memory.read (Memory.write m a b) a = b := by
  by_cases h : b = Memory.initial a
  · simp [Memory.write, h, read_erase_same]
  · simp only [Memory.write, if_neg h]
    exact read_insert_same _ _ _ (fun c hc => (mem_erase.mp hc).2)

/-- A write leaves every other address alone. -/
theorem read_write_ne (m : Memory) {a q : Nat} (b : Byte) (h : q ≠ a) :
    Memory.read (Memory.write m a b) q = Memory.read m q := by
  by_cases hb : b = Memory.initial a
  · simp [Memory.write, hb, read_erase_ne m h]
  · simp [Memory.write, hb, read_insert_ne _ b h, read_erase_ne m h]

/-- After consecutive bytes are written, an address among them reads its byte and every other one reads as before. -/
theorem read_writeList (bs : List Byte) : ∀ (m : Memory) (a q : Nat),
    Memory.read (Memory.writeList m a bs) q =
      if a ≤ q ∧ q < a + bs.length then bs.getD (q - a) 0 else Memory.read m q := by
  induction bs with
  | nil => intro m a q; rw [if_neg (by simp)]; rfl
  | cons b bs ih =>
    intro m a q
    rw [Memory.writeList, ih]
    by_cases hq : q = a
    · subst hq; simp
    · by_cases hin : a + 1 ≤ q ∧ q < a + 1 + bs.length
      · have hin' : a ≤ q ∧ q < a + (b :: bs).length := by simp; omega
        have hsub : q - a = (q - (a + 1)) + 1 := by omega
        rw [if_pos hin, if_pos hin', hsub, List.getD_cons_succ]
      · have hin' : ¬ (a ≤ q ∧ q < a + (b :: bs).length) := by simp; omega
        rw [if_neg hin, if_neg hin', read_write_ne m b hq]

theorem wf_nil : Memory.wf [] := ⟨List.Pairwise.nil, fun _ hc => by cases hc⟩

theorem wf_erase {m : Memory} (h : Memory.wf m) (a : Nat) : Memory.wf (Memory.erase m a) :=
  ⟨h.1.filter _, fun c hc => h.2 c (mem_erase.mp hc).1⟩

theorem mem_insert {m : Memory} {a : Nat} {b : Byte} {c : Host.Cell} (h : c ∈ Memory.insert m a b) :
    c = (a, b) ∨ c ∈ m := by
  induction m with
  | nil => simpa [Memory.insert] using h
  | cons d m ih =>
    obtain ⟨k, v⟩ := d
    by_cases ha : a < k
    · simpa [Memory.insert, ha] using h
    · simp only [Memory.insert, if_neg ha, List.mem_cons] at h
      rcases h with h | h
      · exact .inr (by simp [h])
      · exact (ih h).imp id (by intro h; simp [h])

theorem wf_insert {m : Memory} (h : Memory.wf m) {a : Nat} {b : Byte} (hm : ∀ c ∈ m, c.1 ≠ a)
    (ha : a < Config.memSize) (hb : b ≠ Memory.initial a) : Memory.wf (Memory.insert m a b) := by
  constructor
  · have hp := h.1
    clear h
    induction m with
    | nil => simp [Memory.insert]
    | cons d m ih =>
      obtain ⟨k, v⟩ := d
      rw [List.pairwise_cons] at hp
      have hk : k ≠ a := hm (k, v) (by simp)
      by_cases hlt : a < k
      · simp only [Memory.insert, if_pos hlt, List.pairwise_cons]
        refine ⟨fun c hc => ?_, hp⟩
        rcases List.mem_cons.mp hc with rfl | hc
        · exact hlt
        · exact hlt.trans (hp.1 c hc)
      · simp only [Memory.insert, if_neg hlt, List.pairwise_cons]
        refine ⟨fun c hc => ?_, ih (fun c hc => hm c (by simp [hc])) hp.2⟩
        rcases mem_insert hc with rfl | hc
        · show k < a; omega
        · exact hp.1 c hc
  · intro c hc
    rcases mem_insert hc with rfl | hc
    · exact ⟨ha, hb⟩
    · exact h.2 c hc

/-- A write inside the address space keeps the canonical form. -/
theorem wf_write {m : Memory} (h : Memory.wf m) {a : Nat} (ha : a < Config.memSize) (b : Byte) :
    Memory.wf (Memory.write m a b) := by
  by_cases hb : b = Memory.initial a
  · simpa only [Memory.write, if_pos hb] using wf_erase h a
  · simpa only [Memory.write, if_neg hb] using
      wf_insert (wf_erase h a) (fun c hc => (mem_erase.mp hc).2) ha hb

/-- Consecutive writes inside the address space keep the canonical form. -/
theorem wf_writeList (bs : List Byte) : ∀ {m : Memory}, Memory.wf m → ∀ {a : Nat},
    a + bs.length ≤ Config.memSize → Memory.wf (Memory.writeList m a bs) := by
  induction bs with
  | nil => intro m h a _; exact h
  | cons b bs ih =>
    intro m h a hlen
    rw [List.length_cons] at hlen
    exact ih (wf_write h (by omega) b) (by omega)

/-- Construction's memory is canonical. -/
theorem wf_reset : Memory.wf State.reset.mem := wf_nil

/-- What `init` leaves at an address: FONT in the font region, and every other byte as it was. -/
theorem read_init (s : State) (f : Font) (a : Nat) :
    Memory.read (s.init f).mem a = if a < 0x050 then f.toList.getD a 0 else Memory.read s.mem a := by
  simp [State.init, read_writeList, Config.fontBase]

/-- `init` keeps the canonical form. -/
theorem wf_init {s : State} (h : Memory.wf s.mem) (f : Font) : Memory.wf (s.init f).mem :=
  wf_writeList _ h (by simp [Config.fontSize, Config.memSize])

/-- The block constructed with the default FONT is the state after reset: its memory lists nothing. -/
theorem construct_defaultFont : State.construct defaultFont = State.reset := by decide

/-- Program load keeps the canonical form. -/
theorem wf_load {s t : State} (h : Memory.wf s.mem) {p : List Byte} (hl : s.load p = .next t) : Memory.wf t.mem := by
  unfold State.load at hl
  split at hl
  · next hfit =>
    injection hl with hl
    subst hl
    exact wf_writeList p h hfit
  · cases hl

/-! ## The range check (R63 to R65) -/

/-- The first address out of range: none where the access is empty or ends inside memory, else the larger of its start
and 4096. -/
theorem firstOutOfRange_eq (n : Nat) : ∀ addr : Nat,
    firstOutOfRange addr n = if addr + n ≤ Config.memSize ∨ n = 0 then none else some (max addr Config.memSize) := by
  induction n with
  | zero => intro addr; simp [firstOutOfRange]
  | succ n ih =>
    intro addr
    have hstep : firstOutOfRange addr (n + 1) =
        if Config.memSize ≤ addr then some addr else firstOutOfRange (addr + 1) n := by
      simp only [firstOutOfRange, List.range'_succ, List.find?_cons]
      by_cases h : Config.memSize ≤ addr <;> simp [h]
    rw [hstep, ih]
    by_cases h : Config.memSize ≤ addr
    · rw [if_pos h, if_neg (by omega), Nat.max_eq_left h]
    · rw [if_neg h]
      by_cases hn : addr + 1 + n ≤ Config.memSize ∨ n = 0
      · rw [if_pos hn, if_pos (by omega)]
      · rw [if_neg hn, if_neg (by omega)]
        congr 1; omega

/-- MemRead in full: the fault, or the bytes. -/
theorem memRead_eq (s : State) (word : Option Word) (addr n : Nat) :
    s.memRead word addr n =
      if addr + n ≤ Config.memSize ∨ n = 0 then .ok ((List.range' addr n).map (fun a => Memory.read s.mem a))
      else .error (.addressOutOfRange word s.pc (max addr Config.memSize)) := by
  rw [State.memRead, firstOutOfRange_eq]
  by_cases h : addr + n ≤ Config.memSize ∨ n = 0 <;> simp only [h, if_true, if_false]

/-- MemWrite of at least one byte in full: the two faults, or the bytes written. -/
theorem memWrite_eq (s : State) (word : Word) (addr : Nat) {bytes : List Byte} (hb : bytes ≠ []) :
    s.memWrite word addr bytes =
      if addr + bytes.length ≤ Config.memSize then
        if addr < fontEnd then .error (.protectedWrite word s.pc addr)
        else .ok { s with mem := Memory.writeList s.mem addr bytes }
      else .error (.addressOutOfRange (some word) s.pc (max addr Config.memSize)) := by
  have hl : bytes.length ≠ 0 := by simpa using hb
  rw [State.memWrite, firstOutOfRange_eq]
  by_cases h : addr + bytes.length ≤ Config.memSize
  · simp [h, hb]
  · simp [h, hb]

/-- A checked store keeps the canonical form. -/
theorem wf_memWrite {s t : State} (h : Memory.wf s.mem) {word : Word} {addr : Nat} {bytes : List Byte}
    (hw : s.memWrite word addr bytes = .ok t) : Memory.wf t.mem := by
  by_cases hb : bytes = []
  · subst hb
    simp only [State.memWrite, List.length_nil, firstOutOfRange_eq, or_true, if_true, ne_eq, not_true_eq_false,
      false_and, if_false] at hw
    injection hw with hw
    subst hw
    exact h
  · rw [memWrite_eq s word addr hb] at hw
    split at hw
    · next hfit =>
      split at hw
      · cases hw
      · injection hw with hw
        subst hw
        exact wf_writeList bytes h hfit
    · cases hw

theorem memRead_length {s : State} {word : Option Word} {addr n : Nat} {bs : List Byte}
    (h : s.memRead word addr n = .ok bs) : bs.length = n := by
  rw [memRead_eq] at h
  split at h
  · injection h with h
    simp [← h]
  · cases h

end Sys2Proof.Machine
end

