-- ==== Sys2Proof/Laws/State.lean ====
section
/-! SUPPORT. One lemma per field and update of State, so that no proof unfolds a record update. -/

namespace Sys2Proof.Machine.State

/-! ## setV -/

@[simp] theorem setV_mem (s : State) (r : Reg) (b : Byte) : (s.setV r b).mem = s.mem := rfl
@[simp] theorem setV_V (s : State) (r : Reg) (b : Byte) : (s.setV r b).V = s.V.set r b := rfl
@[simp] theorem setV_I (s : State) (r : Reg) (b : Byte) : (s.setV r b).I = s.I := rfl
@[simp] theorem setV_pc (s : State) (r : Reg) (b : Byte) : (s.setV r b).pc = s.pc := rfl
@[simp] theorem setV_sp (s : State) (r : Reg) (b : Byte) : (s.setV r b).sp = s.sp := rfl
@[simp] theorem setV_stack (s : State) (r : Reg) (b : Byte) : (s.setV r b).stack = s.stack := rfl
@[simp] theorem setV_DT (s : State) (r : Reg) (b : Byte) : (s.setV r b).DT = s.DT := rfl
@[simp] theorem setV_ST (s : State) (r : Reg) (b : Byte) : (s.setV r b).ST = s.ST := rfl
@[simp] theorem setV_keys (s : State) (r : Reg) (b : Byte) : (s.setV r b).keys = s.keys := rfl
@[simp] theorem setV_wait (s : State) (r : Reg) (b : Byte) : (s.setV r b).wait = s.wait := rfl
@[simp] theorem setV_waitReg (s : State) (r : Reg) (b : Byte) : (s.setV r b).waitReg = s.waitReg := rfl
@[simp] theorem setV_fb (s : State) (r : Reg) (b : Byte) : (s.setV r b).fb = s.fb := rfl
@[simp] theorem setV_changed (s : State) (r : Reg) (b : Byte) : (s.setV r b).changed = s.changed := rfl
@[simp] theorem setV_fault (s : State) (r : Reg) (b : Byte) : (s.setV r b).fault = s.fault := rfl
@[simp] theorem setV_rnd (s : State) (r : Reg) (b : Byte) : (s.setV r b).rnd = s.rnd := rfl
@[simp] theorem setV_inputs (s : State) (r : Reg) (b : Byte) : (s.setV r b).inputs = s.inputs := rfl
@[simp] theorem setV_ticks (s : State) (r : Reg) (b : Byte) : (s.setV r b).ticks = s.ticks := rfl

/-! ## setI -/

@[simp] theorem setI_mem (s : State) (w : Word) : (s.setI w).mem = s.mem := rfl
@[simp] theorem setI_V (s : State) (w : Word) : (s.setI w).V = s.V := rfl
@[simp] theorem setI_I (s : State) (w : Word) : (s.setI w).I = w := rfl
@[simp] theorem setI_pc (s : State) (w : Word) : (s.setI w).pc = s.pc := rfl
@[simp] theorem setI_sp (s : State) (w : Word) : (s.setI w).sp = s.sp := rfl
@[simp] theorem setI_stack (s : State) (w : Word) : (s.setI w).stack = s.stack := rfl
@[simp] theorem setI_DT (s : State) (w : Word) : (s.setI w).DT = s.DT := rfl
@[simp] theorem setI_ST (s : State) (w : Word) : (s.setI w).ST = s.ST := rfl
@[simp] theorem setI_keys (s : State) (w : Word) : (s.setI w).keys = s.keys := rfl
@[simp] theorem setI_wait (s : State) (w : Word) : (s.setI w).wait = s.wait := rfl
@[simp] theorem setI_waitReg (s : State) (w : Word) : (s.setI w).waitReg = s.waitReg := rfl
@[simp] theorem setI_fb (s : State) (w : Word) : (s.setI w).fb = s.fb := rfl
@[simp] theorem setI_changed (s : State) (w : Word) : (s.setI w).changed = s.changed := rfl
@[simp] theorem setI_fault (s : State) (w : Word) : (s.setI w).fault = s.fault := rfl
@[simp] theorem setI_rnd (s : State) (w : Word) : (s.setI w).rnd = s.rnd := rfl
@[simp] theorem setI_inputs (s : State) (w : Word) : (s.setI w).inputs = s.inputs := rfl
@[simp] theorem setI_ticks (s : State) (w : Word) : (s.setI w).ticks = s.ticks := rfl

/-! ## setPc -/

@[simp] theorem setPc_mem (s : State) (w : Word) : (s.setPc w).mem = s.mem := rfl
@[simp] theorem setPc_V (s : State) (w : Word) : (s.setPc w).V = s.V := rfl
@[simp] theorem setPc_I (s : State) (w : Word) : (s.setPc w).I = s.I := rfl
@[simp] theorem setPc_pc (s : State) (w : Word) : (s.setPc w).pc = w := rfl
@[simp] theorem setPc_sp (s : State) (w : Word) : (s.setPc w).sp = s.sp := rfl
@[simp] theorem setPc_stack (s : State) (w : Word) : (s.setPc w).stack = s.stack := rfl
@[simp] theorem setPc_DT (s : State) (w : Word) : (s.setPc w).DT = s.DT := rfl
@[simp] theorem setPc_ST (s : State) (w : Word) : (s.setPc w).ST = s.ST := rfl
@[simp] theorem setPc_keys (s : State) (w : Word) : (s.setPc w).keys = s.keys := rfl
@[simp] theorem setPc_wait (s : State) (w : Word) : (s.setPc w).wait = s.wait := rfl
@[simp] theorem setPc_waitReg (s : State) (w : Word) : (s.setPc w).waitReg = s.waitReg := rfl
@[simp] theorem setPc_fb (s : State) (w : Word) : (s.setPc w).fb = s.fb := rfl
@[simp] theorem setPc_changed (s : State) (w : Word) : (s.setPc w).changed = s.changed := rfl
@[simp] theorem setPc_fault (s : State) (w : Word) : (s.setPc w).fault = s.fault := rfl
@[simp] theorem setPc_rnd (s : State) (w : Word) : (s.setPc w).rnd = s.rnd := rfl
@[simp] theorem setPc_inputs (s : State) (w : Word) : (s.setPc w).inputs = s.inputs := rfl
@[simp] theorem setPc_ticks (s : State) (w : Word) : (s.setPc w).ticks = s.ticks := rfl

/-! ## advance -/

@[simp] theorem advance_mem (s : State) : (s.advance).mem = s.mem := rfl
@[simp] theorem advance_V (s : State) : (s.advance).V = s.V := rfl
@[simp] theorem advance_I (s : State) : (s.advance).I = s.I := rfl
@[simp] theorem advance_pc (s : State) : (s.advance).pc = s.pc + 2 := rfl
@[simp] theorem advance_sp (s : State) : (s.advance).sp = s.sp := rfl
@[simp] theorem advance_stack (s : State) : (s.advance).stack = s.stack := rfl
@[simp] theorem advance_DT (s : State) : (s.advance).DT = s.DT := rfl
@[simp] theorem advance_ST (s : State) : (s.advance).ST = s.ST := rfl
@[simp] theorem advance_keys (s : State) : (s.advance).keys = s.keys := rfl
@[simp] theorem advance_wait (s : State) : (s.advance).wait = s.wait := rfl
@[simp] theorem advance_waitReg (s : State) : (s.advance).waitReg = s.waitReg := rfl
@[simp] theorem advance_fb (s : State) : (s.advance).fb = s.fb := rfl
@[simp] theorem advance_changed (s : State) : (s.advance).changed = s.changed := rfl
@[simp] theorem advance_fault (s : State) : (s.advance).fault = s.fault := rfl
@[simp] theorem advance_rnd (s : State) : (s.advance).rnd = s.rnd := rfl
@[simp] theorem advance_inputs (s : State) : (s.advance).inputs = s.inputs := rfl
@[simp] theorem advance_ticks (s : State) : (s.advance).ticks = s.ticks := rfl

/-! ## skipIf -/

@[simp] theorem skipIf_mem (s : State) (c : Bool) : (s.skipIf c).mem = s.mem := rfl
@[simp] theorem skipIf_V (s : State) (c : Bool) : (s.skipIf c).V = s.V := rfl
@[simp] theorem skipIf_I (s : State) (c : Bool) : (s.skipIf c).I = s.I := rfl
@[simp] theorem skipIf_pc (s : State) (c : Bool) : (s.skipIf c).pc = if c then s.pc + 4 else s.pc + 2 := rfl
@[simp] theorem skipIf_sp (s : State) (c : Bool) : (s.skipIf c).sp = s.sp := rfl
@[simp] theorem skipIf_stack (s : State) (c : Bool) : (s.skipIf c).stack = s.stack := rfl
@[simp] theorem skipIf_DT (s : State) (c : Bool) : (s.skipIf c).DT = s.DT := rfl
@[simp] theorem skipIf_ST (s : State) (c : Bool) : (s.skipIf c).ST = s.ST := rfl
@[simp] theorem skipIf_keys (s : State) (c : Bool) : (s.skipIf c).keys = s.keys := rfl
@[simp] theorem skipIf_wait (s : State) (c : Bool) : (s.skipIf c).wait = s.wait := rfl
@[simp] theorem skipIf_waitReg (s : State) (c : Bool) : (s.skipIf c).waitReg = s.waitReg := rfl
@[simp] theorem skipIf_fb (s : State) (c : Bool) : (s.skipIf c).fb = s.fb := rfl
@[simp] theorem skipIf_changed (s : State) (c : Bool) : (s.skipIf c).changed = s.changed := rfl
@[simp] theorem skipIf_fault (s : State) (c : Bool) : (s.skipIf c).fault = s.fault := rfl
@[simp] theorem skipIf_rnd (s : State) (c : Bool) : (s.skipIf c).rnd = s.rnd := rfl
@[simp] theorem skipIf_inputs (s : State) (c : Bool) : (s.skipIf c).inputs = s.inputs := rfl
@[simp] theorem skipIf_ticks (s : State) (c : Bool) : (s.skipIf c).ticks = s.ticks := rfl

/-! ## setFb -/

@[simp] theorem setFb_mem (s : State) (f : Framebuffer) : (s.setFb f).mem = s.mem := rfl
@[simp] theorem setFb_V (s : State) (f : Framebuffer) : (s.setFb f).V = s.V := rfl
@[simp] theorem setFb_I (s : State) (f : Framebuffer) : (s.setFb f).I = s.I := rfl
@[simp] theorem setFb_pc (s : State) (f : Framebuffer) : (s.setFb f).pc = s.pc := rfl
@[simp] theorem setFb_sp (s : State) (f : Framebuffer) : (s.setFb f).sp = s.sp := rfl
@[simp] theorem setFb_stack (s : State) (f : Framebuffer) : (s.setFb f).stack = s.stack := rfl
@[simp] theorem setFb_DT (s : State) (f : Framebuffer) : (s.setFb f).DT = s.DT := rfl
@[simp] theorem setFb_ST (s : State) (f : Framebuffer) : (s.setFb f).ST = s.ST := rfl
@[simp] theorem setFb_keys (s : State) (f : Framebuffer) : (s.setFb f).keys = s.keys := rfl
@[simp] theorem setFb_wait (s : State) (f : Framebuffer) : (s.setFb f).wait = s.wait := rfl
@[simp] theorem setFb_waitReg (s : State) (f : Framebuffer) : (s.setFb f).waitReg = s.waitReg := rfl
@[simp] theorem setFb_fb (s : State) (f : Framebuffer) : (s.setFb f).fb = f := rfl
@[simp] theorem setFb_changed (s : State) (f : Framebuffer) : (s.setFb f).changed = true := rfl
@[simp] theorem setFb_fault (s : State) (f : Framebuffer) : (s.setFb f).fault = s.fault := rfl
@[simp] theorem setFb_rnd (s : State) (f : Framebuffer) : (s.setFb f).rnd = s.rnd := rfl
@[simp] theorem setFb_inputs (s : State) (f : Framebuffer) : (s.setFb f).inputs = s.inputs := rfl
@[simp] theorem setFb_ticks (s : State) (f : Framebuffer) : (s.setFb f).ticks = s.ticks := rfl

/-! ## setDT -/

@[simp] theorem setDT_mem (s : State) (b : Byte) : (s.setDT b).mem = s.mem := rfl
@[simp] theorem setDT_V (s : State) (b : Byte) : (s.setDT b).V = s.V := rfl
@[simp] theorem setDT_I (s : State) (b : Byte) : (s.setDT b).I = s.I := rfl
@[simp] theorem setDT_pc (s : State) (b : Byte) : (s.setDT b).pc = s.pc := rfl
@[simp] theorem setDT_sp (s : State) (b : Byte) : (s.setDT b).sp = s.sp := rfl
@[simp] theorem setDT_stack (s : State) (b : Byte) : (s.setDT b).stack = s.stack := rfl
@[simp] theorem setDT_DT (s : State) (b : Byte) : (s.setDT b).DT = b := rfl
@[simp] theorem setDT_ST (s : State) (b : Byte) : (s.setDT b).ST = s.ST := rfl
@[simp] theorem setDT_keys (s : State) (b : Byte) : (s.setDT b).keys = s.keys := rfl
@[simp] theorem setDT_wait (s : State) (b : Byte) : (s.setDT b).wait = s.wait := rfl
@[simp] theorem setDT_waitReg (s : State) (b : Byte) : (s.setDT b).waitReg = s.waitReg := rfl
@[simp] theorem setDT_fb (s : State) (b : Byte) : (s.setDT b).fb = s.fb := rfl
@[simp] theorem setDT_changed (s : State) (b : Byte) : (s.setDT b).changed = s.changed := rfl
@[simp] theorem setDT_fault (s : State) (b : Byte) : (s.setDT b).fault = s.fault := rfl
@[simp] theorem setDT_rnd (s : State) (b : Byte) : (s.setDT b).rnd = s.rnd := rfl
@[simp] theorem setDT_inputs (s : State) (b : Byte) : (s.setDT b).inputs = s.inputs := rfl
@[simp] theorem setDT_ticks (s : State) (b : Byte) : (s.setDT b).ticks = s.ticks := rfl

/-! ## setST -/

@[simp] theorem setST_mem (s : State) (b : Byte) : (s.setST b).mem = s.mem := rfl
@[simp] theorem setST_V (s : State) (b : Byte) : (s.setST b).V = s.V := rfl
@[simp] theorem setST_I (s : State) (b : Byte) : (s.setST b).I = s.I := rfl
@[simp] theorem setST_pc (s : State) (b : Byte) : (s.setST b).pc = s.pc := rfl
@[simp] theorem setST_sp (s : State) (b : Byte) : (s.setST b).sp = s.sp := rfl
@[simp] theorem setST_stack (s : State) (b : Byte) : (s.setST b).stack = s.stack := rfl
@[simp] theorem setST_DT (s : State) (b : Byte) : (s.setST b).DT = s.DT := rfl
@[simp] theorem setST_ST (s : State) (b : Byte) : (s.setST b).ST = b := rfl
@[simp] theorem setST_keys (s : State) (b : Byte) : (s.setST b).keys = s.keys := rfl
@[simp] theorem setST_wait (s : State) (b : Byte) : (s.setST b).wait = s.wait := rfl
@[simp] theorem setST_waitReg (s : State) (b : Byte) : (s.setST b).waitReg = s.waitReg := rfl
@[simp] theorem setST_fb (s : State) (b : Byte) : (s.setST b).fb = s.fb := rfl
@[simp] theorem setST_changed (s : State) (b : Byte) : (s.setST b).changed = s.changed := rfl
@[simp] theorem setST_fault (s : State) (b : Byte) : (s.setST b).fault = s.fault := rfl
@[simp] theorem setST_rnd (s : State) (b : Byte) : (s.setST b).rnd = s.rnd := rfl
@[simp] theorem setST_inputs (s : State) (b : Byte) : (s.setST b).inputs = s.inputs := rfl
@[simp] theorem setST_ticks (s : State) (b : Byte) : (s.setST b).ticks = s.ticks := rfl

/-! ## countDownTimers -/

@[simp] theorem countDownTimers_mem (s : State) : (s.countDownTimers).mem = s.mem := rfl
@[simp] theorem countDownTimers_V (s : State) : (s.countDownTimers).V = s.V := rfl
@[simp] theorem countDownTimers_I (s : State) : (s.countDownTimers).I = s.I := rfl
@[simp] theorem countDownTimers_pc (s : State) : (s.countDownTimers).pc = s.pc := rfl
@[simp] theorem countDownTimers_sp (s : State) : (s.countDownTimers).sp = s.sp := rfl
@[simp] theorem countDownTimers_stack (s : State) : (s.countDownTimers).stack = s.stack := rfl
@[simp] theorem countDownTimers_DT (s : State) : (s.countDownTimers).DT = countDown s.DT := rfl
@[simp] theorem countDownTimers_ST (s : State) : (s.countDownTimers).ST = countDown s.ST := rfl
@[simp] theorem countDownTimers_keys (s : State) : (s.countDownTimers).keys = s.keys := rfl
@[simp] theorem countDownTimers_wait (s : State) : (s.countDownTimers).wait = s.wait := rfl
@[simp] theorem countDownTimers_waitReg (s : State) : (s.countDownTimers).waitReg = s.waitReg := rfl
@[simp] theorem countDownTimers_fb (s : State) : (s.countDownTimers).fb = s.fb := rfl
@[simp] theorem countDownTimers_changed (s : State) : (s.countDownTimers).changed = s.changed := rfl
@[simp] theorem countDownTimers_fault (s : State) : (s.countDownTimers).fault = s.fault := rfl
@[simp] theorem countDownTimers_rnd (s : State) : (s.countDownTimers).rnd = s.rnd := rfl
@[simp] theorem countDownTimers_inputs (s : State) : (s.countDownTimers).inputs = s.inputs := rfl
@[simp] theorem countDownTimers_ticks (s : State) : (s.countDownTimers).ticks = s.ticks := rfl

/-! ## setLatch -/

@[simp] theorem setLatch_mem (s : State) (x : Reg) : (s.setLatch x).mem = s.mem := rfl
@[simp] theorem setLatch_V (s : State) (x : Reg) : (s.setLatch x).V = s.V := rfl
@[simp] theorem setLatch_I (s : State) (x : Reg) : (s.setLatch x).I = s.I := rfl
@[simp] theorem setLatch_pc (s : State) (x : Reg) : (s.setLatch x).pc = s.pc := rfl
@[simp] theorem setLatch_sp (s : State) (x : Reg) : (s.setLatch x).sp = s.sp := rfl
@[simp] theorem setLatch_stack (s : State) (x : Reg) : (s.setLatch x).stack = s.stack := rfl
@[simp] theorem setLatch_DT (s : State) (x : Reg) : (s.setLatch x).DT = s.DT := rfl
@[simp] theorem setLatch_ST (s : State) (x : Reg) : (s.setLatch x).ST = s.ST := rfl
@[simp] theorem setLatch_keys (s : State) (x : Reg) : (s.setLatch x).keys = s.keys := rfl
@[simp] theorem setLatch_wait (s : State) (x : Reg) : (s.setLatch x).wait = true := rfl
@[simp] theorem setLatch_waitReg (s : State) (x : Reg) : (s.setLatch x).waitReg = x := rfl
@[simp] theorem setLatch_fb (s : State) (x : Reg) : (s.setLatch x).fb = s.fb := rfl
@[simp] theorem setLatch_changed (s : State) (x : Reg) : (s.setLatch x).changed = s.changed := rfl
@[simp] theorem setLatch_fault (s : State) (x : Reg) : (s.setLatch x).fault = s.fault := rfl
@[simp] theorem setLatch_rnd (s : State) (x : Reg) : (s.setLatch x).rnd = s.rnd := rfl
@[simp] theorem setLatch_inputs (s : State) (x : Reg) : (s.setLatch x).inputs = s.inputs := rfl
@[simp] theorem setLatch_ticks (s : State) (x : Reg) : (s.setLatch x).ticks = s.ticks := rfl

/-! ## resolveWait -/

@[simp] theorem resolveWait_mem (s : State) (i : Fin Config.numKeys) : (s.resolveWait i).mem = s.mem := rfl
@[simp] theorem resolveWait_V (s : State) (i : Fin Config.numKeys) : (s.resolveWait i).V = s.V.set s.waitReg (BitVec.ofNat 8 i.val) := rfl
@[simp] theorem resolveWait_I (s : State) (i : Fin Config.numKeys) : (s.resolveWait i).I = s.I := rfl
@[simp] theorem resolveWait_pc (s : State) (i : Fin Config.numKeys) : (s.resolveWait i).pc = s.pc := rfl
@[simp] theorem resolveWait_sp (s : State) (i : Fin Config.numKeys) : (s.resolveWait i).sp = s.sp := rfl
@[simp] theorem resolveWait_stack (s : State) (i : Fin Config.numKeys) : (s.resolveWait i).stack = s.stack := rfl
@[simp] theorem resolveWait_DT (s : State) (i : Fin Config.numKeys) : (s.resolveWait i).DT = s.DT := rfl
@[simp] theorem resolveWait_ST (s : State) (i : Fin Config.numKeys) : (s.resolveWait i).ST = s.ST := rfl
@[simp] theorem resolveWait_keys (s : State) (i : Fin Config.numKeys) : (s.resolveWait i).keys = s.keys := rfl
@[simp] theorem resolveWait_wait (s : State) (i : Fin Config.numKeys) : (s.resolveWait i).wait = false := rfl
@[simp] theorem resolveWait_waitReg (s : State) (i : Fin Config.numKeys) : (s.resolveWait i).waitReg = s.waitReg := rfl
@[simp] theorem resolveWait_fb (s : State) (i : Fin Config.numKeys) : (s.resolveWait i).fb = s.fb := rfl
@[simp] theorem resolveWait_changed (s : State) (i : Fin Config.numKeys) : (s.resolveWait i).changed = s.changed := rfl
@[simp] theorem resolveWait_fault (s : State) (i : Fin Config.numKeys) : (s.resolveWait i).fault = s.fault := rfl
@[simp] theorem resolveWait_rnd (s : State) (i : Fin Config.numKeys) : (s.resolveWait i).rnd = s.rnd := rfl
@[simp] theorem resolveWait_inputs (s : State) (i : Fin Config.numKeys) : (s.resolveWait i).inputs = s.inputs := rfl
@[simp] theorem resolveWait_ticks (s : State) (i : Fin Config.numKeys) : (s.resolveWait i).ticks = s.ticks := rfl

/-! ## beginTick -/

@[simp] theorem beginTick_mem (s : State) : (s.beginTick).mem = s.mem := rfl
@[simp] theorem beginTick_V (s : State) : (s.beginTick).V = s.V := rfl
@[simp] theorem beginTick_I (s : State) : (s.beginTick).I = s.I := rfl
@[simp] theorem beginTick_pc (s : State) : (s.beginTick).pc = s.pc := rfl
@[simp] theorem beginTick_sp (s : State) : (s.beginTick).sp = s.sp := rfl
@[simp] theorem beginTick_stack (s : State) : (s.beginTick).stack = s.stack := rfl
@[simp] theorem beginTick_DT (s : State) : (s.beginTick).DT = s.DT := rfl
@[simp] theorem beginTick_ST (s : State) : (s.beginTick).ST = s.ST := rfl
@[simp] theorem beginTick_keys (s : State) : (s.beginTick).keys = s.tickInput.keys := rfl
@[simp] theorem beginTick_wait (s : State) : (s.beginTick).wait = s.wait := rfl
@[simp] theorem beginTick_waitReg (s : State) : (s.beginTick).waitReg = s.waitReg := rfl
@[simp] theorem beginTick_fb (s : State) : (s.beginTick).fb = s.fb := rfl
@[simp] theorem beginTick_changed (s : State) : (s.beginTick).changed = false := rfl
@[simp] theorem beginTick_fault (s : State) : (s.beginTick).fault = s.fault := rfl
@[simp] theorem beginTick_rnd (s : State) : (s.beginTick).rnd = s.tickInput.rnd := rfl
@[simp] theorem beginTick_inputs (s : State) : (s.beginTick).inputs = s.inputs.tail := rfl
@[simp] theorem beginTick_ticks (s : State) : (s.beginTick).ticks = s.ticks + 1 := rfl

/-! ## init and construct: all but memory -/

@[simp] theorem init_V (s : State) (f : Font) : (s.init f).V = s.V := rfl
@[simp] theorem init_I (s : State) (f : Font) : (s.init f).I = s.I := rfl
@[simp] theorem init_pc (s : State) (f : Font) : (s.init f).pc = s.pc := rfl
@[simp] theorem init_sp (s : State) (f : Font) : (s.init f).sp = s.sp := rfl
@[simp] theorem init_stack (s : State) (f : Font) : (s.init f).stack = s.stack := rfl
@[simp] theorem init_DT (s : State) (f : Font) : (s.init f).DT = s.DT := rfl
@[simp] theorem init_ST (s : State) (f : Font) : (s.init f).ST = s.ST := rfl
@[simp] theorem init_keys (s : State) (f : Font) : (s.init f).keys = s.keys := rfl
@[simp] theorem init_wait (s : State) (f : Font) : (s.init f).wait = s.wait := rfl
@[simp] theorem init_waitReg (s : State) (f : Font) : (s.init f).waitReg = s.waitReg := rfl
@[simp] theorem init_fb (s : State) (f : Font) : (s.init f).fb = s.fb := rfl
@[simp] theorem init_changed (s : State) (f : Font) : (s.init f).changed = s.changed := rfl
@[simp] theorem init_fault (s : State) (f : Font) : (s.init f).fault = s.fault := rfl
@[simp] theorem init_rnd (s : State) (f : Font) : (s.init f).rnd = s.rnd := rfl
@[simp] theorem init_inputs (s : State) (f : Font) : (s.init f).inputs = s.inputs := rfl
@[simp] theorem init_ticks (s : State) (f : Font) : (s.init f).ticks = s.ticks := rfl

@[simp] theorem construct_V (f : Font) : (State.construct f).V = State.reset.V := rfl
@[simp] theorem construct_I (f : Font) : (State.construct f).I = State.reset.I := rfl
@[simp] theorem construct_pc (f : Font) : (State.construct f).pc = State.reset.pc := rfl
@[simp] theorem construct_sp (f : Font) : (State.construct f).sp = State.reset.sp := rfl
@[simp] theorem construct_stack (f : Font) : (State.construct f).stack = State.reset.stack := rfl
@[simp] theorem construct_DT (f : Font) : (State.construct f).DT = State.reset.DT := rfl
@[simp] theorem construct_ST (f : Font) : (State.construct f).ST = State.reset.ST := rfl
@[simp] theorem construct_keys (f : Font) : (State.construct f).keys = State.reset.keys := rfl
@[simp] theorem construct_wait (f : Font) : (State.construct f).wait = State.reset.wait := rfl
@[simp] theorem construct_waitReg (f : Font) : (State.construct f).waitReg = State.reset.waitReg := rfl
@[simp] theorem construct_fb (f : Font) : (State.construct f).fb = State.reset.fb := rfl
@[simp] theorem construct_changed (f : Font) : (State.construct f).changed = State.reset.changed := rfl
@[simp] theorem construct_fault (f : Font) : (State.construct f).fault = State.reset.fault := rfl
@[simp] theorem construct_rnd (f : Font) : (State.construct f).rnd = State.reset.rnd := rfl
@[simp] theorem construct_inputs (f : Font) : (State.construct f).inputs = State.reset.inputs := rfl
@[simp] theorem construct_ticks (f : Font) : (State.construct f).ticks = State.reset.ticks := rfl

end Sys2Proof.Machine.State
end

