-- ==== Sys2Proof/Laws/Registers.lean ====
section
/-! SUPPORT. What reading a register gives after each way of writing one, and that such writes touch nothing but V. -/

namespace Sys2Proof.Machine

@[simp] theorem v_setV (s : State) (r q : Reg) (b : Byte) : (s.setV r b).v q = if q = r then b else s.v q := by
  have key : (s.V.set r.val b)[q.val] = if q = r then b else s.V[q.val] := by
    rw [Vector.getElem_set]
    by_cases h : r.val = q.val
    · simp [h, Fin.ext_iff]
    · simp [h, Fin.ext_iff, Ne.symm h]
  exact key

@[simp] theorem v_setPc (s : State) (w : Word) (q : Reg) : (s.setPc w).v q = s.v q := rfl
@[simp] theorem v_advance (s : State) (q : Reg) : s.advance.v q = s.v q := rfl
@[simp] theorem v_skipIf (s : State) (c : Bool) (q : Reg) : (s.skipIf c).v q = s.v q := rfl
@[simp] theorem v_setI (s : State) (w : Word) (q : Reg) : (s.setI w).v q = s.v q := rfl
@[simp] theorem v_setFb (s : State) (f : Framebuffer) (q : Reg) : (s.setFb f).v q = s.v q := rfl
@[simp] theorem v_setDT (s : State) (b : Byte) (q : Reg) : (s.setDT b).v q = s.v q := rfl
@[simp] theorem v_setST (s : State) (b : Byte) (q : Reg) : (s.setST b).v q = s.v q := rfl
@[simp] theorem v_setLatch (s : State) (x q : Reg) : (s.setLatch x).v q = s.v q := rfl
@[simp] theorem v_beginTick (s : State) (q : Reg) : s.beginTick.v q = s.v q := rfl
@[simp] theorem v_countDownTimers (s : State) (q : Reg) : s.countDownTimers.v q = s.v q := rfl

@[simp] theorem v_resolveWait (s : State) (i : Fin Config.numKeys) (q : Reg) :
    (s.resolveWait i).v q = if q = s.waitReg then BitVec.ofNat 8 i.val else s.v q :=
  v_setV s s.waitReg q _

/-- The flag is written last: VF holds the flag, whatever the destination (R181). -/
@[simp] theorem v_setVFlag (s : State) (x q : Reg) (b : Byte) (f : Bool) :
    (s.setVFlag x b f).v q = if q = regF then flagByte f else if q = x then b else s.v q := by
  simp [State.setVFlag]

theorem setVFlag_frame (s : State) (x : Reg) (b : Byte) (f : Bool) :
    s.setVFlag x b f = { s with V := (s.setVFlag x b f).V } := rfl

/-- Registers V[k] to V[k+n-1] receive the n bytes; the others keep their values. -/
theorem v_loadRegs (bs : List Byte) : ∀ (s : State) (k : Nat) (q : Reg),
    (s.loadRegs k bs).v q = if k ≤ q.val ∧ q.val < k + bs.length then bs.getD (q.val - k) 0 else s.v q := by
  induction bs with
  | nil => intro s k q; rw [if_neg (by simp)]; rfl
  | cons b bs ih =>
    intro s k q
    rw [State.loadRegs, ih]
    by_cases hk : k < 16
    · by_cases hq : q.val = k
      · subst hq
        simp [hk]
      · have hne : q ≠ ⟨k, hk⟩ := fun h => hq (by simp [h])
        by_cases hin : k + 1 ≤ q.val ∧ q.val < k + 1 + bs.length
        · have hin' : k ≤ q.val ∧ q.val < k + (b :: bs).length := by simp; omega
          have hsub : q.val - k = (q.val - (k + 1)) + 1 := by omega
          rw [if_pos hin, if_pos hin', hsub, List.getD_cons_succ]
        · have hin' : ¬ (k ≤ q.val ∧ q.val < k + (b :: bs).length) := by simp; omega
          rw [if_neg hin, if_neg hin']
          simp [hk, hne]
    · have := q.isLt
      rw [if_neg (by omega), if_neg (by omega), dif_neg hk]

/-- Loading registers writes V and nothing else. -/
theorem loadRegs_frame (bs : List Byte) : ∀ (s : State) (k : Nat),
    s.loadRegs k bs = { s with V := (s.loadRegs k bs).V } := by
  induction bs with
  | nil => intro s k; rfl
  | cons b bs ih =>
    intro s k
    rw [State.loadRegs, ih]
    by_cases hk : k < 16 <;> simp [hk, State.setV]

/-- V[0] to V[x], x included, in order. -/
theorem length_regBlock (s : State) (x : Reg) : (s.regBlock x).length = x.val + 1 := by
  have := x.isLt
  simp only [State.regBlock, List.length_take, Vector.length_toList]
  omega

theorem getD_regBlock (s : State) (x : Reg) (k : Nat) (h : k ≤ x.val) :
    (s.regBlock x).getD k 0 = s.v ⟨k, by omega⟩ := by
  simp [State.regBlock, State.v, List.getD_eq_getElem?_getD, show k < x.val + 1 by omega]

end Sys2Proof.Machine
end

