-- ==== Sys2Proof/Laws/Operands.lean ====
section
/-! SUPPORT. The values of the operand forms as numbers, the countdown, and the scan for a held key. -/

namespace Sys2Proof.Machine

@[simp] theorem toNat_zextAddr (nnn : Addr12) : (zextAddr nnn).toNat = nnn.toNat := by
  simp [zextAddr, BitVec.toNat_setWidth]
  omega

/-- The jump target of Bnnn is the exact sum (R154). -/
theorem toNat_offsetTarget (s : State) (nnn : Addr12) :
    (s.offsetTarget nnn).toNat = (s.v 0).toNat + nnn.toNat := by
  have h0 := (s.v 0).isLt
  have h1 := nnn.isLt
  simp only [State.offsetTarget, BitVec.toNat_ofNat]
  omega

/-- I after Fx1E is the sum mod 4096 (R211). -/
theorem toNat_mask12 (n : Nat) : (mask12 n).toNat = n % 4096 := by
  have h : n &&& 0xFFF = n % 4096 := Nat.and_two_pow_sub_one_eq_mod n 12
  simp only [mask12, BitVec.toNat_ofNat, h]
  omega

/-- I after Fx29 is the exact product (R212). -/
theorem toNat_glyphAddr (b : Byte) : (glyphAddr b).toNat = b.toNat * 5 := by
  have h := b.isLt
  simp only [glyphAddr, Config.glyphBytes, BitVec.toNat_ofNat]
  omega

@[simp] theorem length_bcdDigits (b : Byte) : (bcdDigits b).length = 3 := rfl

/-- A timer counts down by one and stays at 0 (R33). -/
theorem toNat_countDown (t : Byte) : (countDown t).toNat = t.toNat - 1 := by
  have h := t.isLt
  unfold countDown
  split
  · rw [BitVec.toNat_sub]
    simp
    omega
  · simp
    omega

/-- No key is found exactly where none is held (R125). -/
theorem firstKey_eq_none {keys : Vector Bool Config.numKeys} : firstKey keys = none ↔ ∀ i : Fin 16, keys[i] = false := by
  simp [firstKey, List.find?_eq_none]

/-- The key found is held, and no lower one is (R126). -/
theorem firstKey_eq_some {keys : Vector Bool Config.numKeys} {i : Fin 16} :
    firstKey keys = some i ↔ keys[i] = true ∧ ∀ j : Fin 16, j < i → keys[j] = false := by
  rw [firstKey, List.find?_eq_some_iff_getElem]
  constructor
  · rintro ⟨hi, k, hk, rfl, hlt⟩
    refine ⟨hi, fun j hj => ?_⟩
    have := hlt j.val (by simpa [Fin.lt_def] using hj)
    simpa using this
  · rintro ⟨hi, hlt⟩
    refine ⟨hi, i.val, by simp, by simp, fun j hj => ?_⟩
    have := hlt ⟨j, by omega⟩ hj
    simpa using this

/-- The key a register numbers is held, as the snapshot says (R159, R160). -/
theorem keyHeld_of_lt (s : State) (word : Word) (x : Reg) (h : (s.v x).toNat < 16) :
    s.keyHeld word x = .ok (s.keys[(s.v x).toNat]'h) :=
  dif_pos h

/-- A register that numbers no key (R286). -/
theorem keyHeld_of_ge (s : State) (word : Word) (x : Reg) (h : 16 ≤ (s.v x).toNat) :
    s.keyHeld word x = .error (.keyIndexOutOfRange word s.pc) :=
  dif_neg (by show ¬ _ < 16; omega)

end Sys2Proof.Machine
end

