-- ==== Sys2Proof/Laws/Stack.lean ====
section
/-! SUPPORT. Push and pop in full (spec/10_state.md R31, R32). -/

namespace Sys2Proof.Machine

theorem push_of_lt (s : State) (word v : Word) (h : s.sp.val < Config.stackDepth) :
    s.push word v = .ok { s with stack := s.stack.set s.sp.val v h, sp := ⟨s.sp.val + 1, by omega⟩ } :=
  dif_pos h

theorem push_of_full (s : State) (word v : Word) (h : s.sp.val = Config.stackDepth) :
    s.push word v = .error (.stackOverflow word s.pc) :=
  dif_neg (by omega)

theorem pop_of_pos (s : State) (word : Word) (h : 0 < s.sp.val) :
    s.pop word = .ok (s.stack[s.sp.val - 1]'(by omega), { s with sp := ⟨s.sp.val - 1, by omega⟩ }) :=
  dif_pos h

theorem pop_of_empty (s : State) (word : Word) (h : s.sp.val = 0) :
    s.pop word = .error (.stackUnderflow word s.pc) :=
  dif_neg (by omega)

end Sys2Proof.Machine
end

