-- ==== Sys2Proof/Laws/Exec.lean ====
section
/-! SUPPORT. The meanings that can fault, each as one condition, the next state where it holds and the fault where it does
not. The other meanings answer `.next` by definition. -/

namespace Sys2Proof.Machine

theorem execRet_eq (s : State) :
    execRet s = if h : 0 < s.sp.val then
        .next { s with pc := s.stack[s.sp.val - 1]'(by omega), sp := ⟨s.sp.val - 1, by omega⟩ }
      else .fault (.stackUnderflow 0x00EE s.pc) := by
  by_cases h : 0 < s.sp.val
  · rw [dif_pos h, execRet, pop_of_pos s _ h]
    rfl
  · rw [dif_neg h, execRet, pop_of_empty s _ (by omega)]
    rfl

theorem execCall_eq (nnn : Addr12) (s : State) :
    execCall nnn s = if h : s.sp.val < Config.stackDepth then
        .next { s with pc := zextAddr nnn, stack := s.stack.set s.sp.val (s.pc + 2) h, sp := ⟨s.sp.val + 1, by omega⟩ }
      else .fault (.stackOverflow (encode (.call nnn)) s.pc) := by
  by_cases h : s.sp.val < Config.stackDepth
  · rw [dif_pos h, execCall, push_of_lt s _ _ h]
    rfl
  · rw [dif_neg h, execCall, push_of_full s _ _ (by omega)]

theorem execSkp_eq (x : Reg) (s : State) :
    execSkp x s = if h : (s.v x).toNat < 16 then .next (s.skipIf (s.keys[(s.v x).toNat]'h))
      else .fault (.keyIndexOutOfRange (encode (.skp x)) s.pc) := by
  by_cases h : (s.v x).toNat < 16
  · rw [dif_pos h, execSkp, keyHeld_of_lt s _ x h]
  · rw [dif_neg h, execSkp, keyHeld_of_ge s _ x (by omega)]

theorem execSknp_eq (x : Reg) (s : State) :
    execSknp x s = if h : (s.v x).toNat < 16 then .next (s.skipIf (!s.keys[(s.v x).toNat]'h))
      else .fault (.keyIndexOutOfRange (encode (.sknp x)) s.pc) := by
  by_cases h : (s.v x).toNat < 16
  · rw [dif_pos h, execSknp, keyHeld_of_lt s _ x h]
  · rw [dif_neg h, execSknp, keyHeld_of_ge s _ x (by omega)]

theorem execDrw_eq (x y : Reg) (n : Nibble) (s : State) :
    execDrw x y n s = if s.I.toNat + n.toNat ≤ Config.memSize ∨ n.toNat = 0 then
        let cv := s.drawSprite x y ((List.range' s.I.toNat n.toNat).map (fun a => Memory.read s.mem a))
        .next ((s.setFb cv.fb).setV regF (flagByte cv.coll)).advance
      else .fault (.addressOutOfRange (some (encode (.drw x y n))) s.pc (max s.I.toNat Config.memSize)) := by
  rw [execDrw, memRead_eq, State.indexAddr]
  by_cases h : s.I.toNat + n.toNat ≤ Config.memSize ∨ n.toNat = 0
  · rw [if_pos h, if_pos h]
  · rw [if_neg h, if_neg h]

theorem execLdVxMem_eq (x : Reg) (s : State) :
    execLdVxMem x s = if s.I.toNat + (x.val + 1) ≤ Config.memSize then
        .next (s.loadRegs 0 ((List.range' s.I.toNat (x.val + 1)).map (fun a => Memory.read s.mem a))).advance
      else .fault (.addressOutOfRange (some (encode (.ldVxMem x))) s.pc (max s.I.toNat Config.memSize)) := by
  rw [execLdVxMem, memRead_eq, State.indexAddr]
  by_cases h : s.I.toNat + (x.val + 1) ≤ Config.memSize
  · rw [if_pos (.inl h), if_pos h]
  · rw [if_neg (by omega), if_neg h]

theorem execLdBcdVx_eq (x : Reg) (s : State) :
    execLdBcdVx x s = if s.I.toNat + 3 ≤ Config.memSize then
        if s.I.toNat < fontEnd then .fault (.protectedWrite (encode (.ldBcdVx x)) s.pc s.I.toNat)
        else .next { s with mem := Memory.writeList s.mem s.I.toNat (bcdDigits (s.v x)), pc := s.pc + 2 }
      else .fault (.addressOutOfRange (some (encode (.ldBcdVx x))) s.pc (max s.I.toNat Config.memSize)) := by
  rw [execLdBcdVx, memWrite_eq s _ _ (by simp [bcdDigits]), State.indexAddr, length_bcdDigits]
  by_cases h : s.I.toNat + 3 ≤ Config.memSize
  · rw [if_pos h, if_pos h]
    by_cases hf : s.I.toNat < fontEnd
    · rw [if_pos hf, if_pos hf]
    · rw [if_neg hf, if_neg hf]
      rfl
  · rw [if_neg h, if_neg h]

theorem execLdMemVx_eq (x : Reg) (s : State) :
    execLdMemVx x s = if s.I.toNat + (x.val + 1) ≤ Config.memSize then
        if s.I.toNat < fontEnd then .fault (.protectedWrite (encode (.ldMemVx x)) s.pc s.I.toNat)
        else .next { s with mem := Memory.writeList s.mem s.I.toNat (s.regBlock x), pc := s.pc + 2 }
      else .fault (.addressOutOfRange (some (encode (.ldMemVx x))) s.pc (max s.I.toNat Config.memSize)) := by
  have hne : s.regBlock x ≠ [] := List.ne_nil_of_length_pos (by rw [length_regBlock]; omega)
  rw [execLdMemVx, memWrite_eq s _ _ hne, State.indexAddr, length_regBlock]
  by_cases h : s.I.toNat + (x.val + 1) ≤ Config.memSize
  · rw [if_pos h, if_pos h]
    by_cases hf : s.I.toNat < fontEnd
    · rw [if_pos hf, if_pos hf]
    · rw [if_neg hf, if_neg hf]
      rfl
  · rw [if_neg h, if_neg h]

end Sys2Proof.Machine
end

