-- ==== Sys2Proof/Laws/PerInstr.lean ====
section
/-! SUPPORT. Statements made instruction by instruction. Family `Encoding`: an instruction's word matches the mask and
pattern of its own row of the opcode map (spec/30_encoding.md R94). -/

namespace Sys2Proof.Laws.Encoding

/-- Some row of the opcode map has the instruction's number, and the instruction's word matches it. -/
def Statement (i : Instr) : Prop :=
  ∃ row ∈ opcodeMap, row.number = i.rowNumber ∧ row.matchesWord (encode i) = true

/-- The bits of a word under a mask, as a match of a row. -/
theorem of_row {i : Instr} (row : OpcodeRow) (hm : row ∈ opcodeMap) (hn : row.number = i.rowNumber)
    (hw : encode i &&& row.mask = row.pat) : Statement i :=
  ⟨row, hm, hn, by simpa [OpcodeRow.matchesWord] using hw⟩

/-- A nibble under a mask of ones. -/
theorem and_ones4 (o : Nibble) : o &&& 0xF#4 = o := BitVec.and_allOnes (x := o)

/-- A byte under a mask of ones. -/
theorem and_ones8 (b : Byte) : b &&& 0xFF#8 = b := BitVec.and_allOnes (x := b)

theorem op12 (o : Nibble) (nnn : Addr12) :
    (o ++ nnn : BitVec (4 + 12)) &&& (0xF#4 ++ 0x000#12 : BitVec (4 + 12)) = o ++ 0x000#12 := by
  rw [BitVec.and_append]; simp [and_ones4]

theorem op48 (o x : Nibble) (nn : Byte) :
    (o ++ x ++ nn : BitVec (4 + 4 + 8)) &&& (0xF#4 ++ 0x0#4 ++ 0x00#8 : BitVec (4 + 4 + 8)) = o ++ 0x0#4 ++ 0x00#8 := by
  rw [BitVec.and_append, BitVec.and_append]; simp [and_ones4]

theorem op4x8 (o x : Nibble) (nn : Byte) :
    (o ++ x ++ nn : BitVec (4 + 4 + 8)) &&& (0xF#4 ++ 0x0#4 ++ 0xFF#8 : BitVec (4 + 4 + 8)) = o ++ 0x0#4 ++ nn := by
  rw [BitVec.and_append, BitVec.and_append]; simp [and_ones4, and_ones8]

theorem op4xy4 (o x y n : Nibble) :
    (o ++ x ++ y ++ n : BitVec (4 + 4 + 4 + 4)) &&& (0xF#4 ++ 0x0#4 ++ 0x0#4 ++ 0xF#4 : BitVec (4 + 4 + 4 + 4)) =
      o ++ 0x0#4 ++ 0x0#4 ++ n := by
  rw [BitVec.and_append, BitVec.and_append, BitVec.and_append]; simp [and_ones4]

theorem op4xyn (o x y n : Nibble) :
    (o ++ x ++ y ++ n : BitVec (4 + 4 + 4 + 4)) &&& (0xF#4 ++ 0x0#4 ++ 0x0#4 ++ 0x0#4 : BitVec (4 + 4 + 4 + 4)) =
      o ++ 0x0#4 ++ 0x0#4 ++ 0x0#4 := by
  rw [BitVec.and_append, BitVec.and_append, BitVec.and_append]; simp [and_ones4]

theorem cls : Statement .cls :=
  of_row ⟨1, 0xFFFF, 0x00E0⟩ (by decide) rfl (rfl)

theorem ret : Statement .ret :=
  of_row ⟨2, 0xFFFF, 0x00EE⟩ (by decide) rfl (rfl)

theorem sys (nnn : Addr12) : Statement (.sys nnn) :=
  of_row ⟨3, 0xF000, 0x0000⟩ (by decide) rfl (op12 0x0#4 nnn)

theorem jp (nnn : Addr12) : Statement (.jp nnn) :=
  of_row ⟨4, 0xF000, 0x1000⟩ (by decide) rfl (op12 0x1#4 nnn)

theorem call (nnn : Addr12) : Statement (.call nnn) :=
  of_row ⟨5, 0xF000, 0x2000⟩ (by decide) rfl (op12 0x2#4 nnn)

theorem seImm (x : Reg) (nn : Byte) : Statement (.seImm x nn) :=
  of_row ⟨6, 0xF000, 0x3000⟩ (by decide) rfl (op48 0x3#4 (regBits x) nn)

theorem sneImm (x : Reg) (nn : Byte) : Statement (.sneImm x nn) :=
  of_row ⟨7, 0xF000, 0x4000⟩ (by decide) rfl (op48 0x4#4 (regBits x) nn)

theorem seReg (x : Reg) (y : Reg) : Statement (.seReg x y) :=
  of_row ⟨8, 0xF00F, 0x5000⟩ (by decide) rfl (op4xy4 0x5#4 (regBits x) (regBits y) 0x0#4)

theorem ldImm (x : Reg) (nn : Byte) : Statement (.ldImm x nn) :=
  of_row ⟨9, 0xF000, 0x6000⟩ (by decide) rfl (op48 0x6#4 (regBits x) nn)

theorem addImm (x : Reg) (nn : Byte) : Statement (.addImm x nn) :=
  of_row ⟨10, 0xF000, 0x7000⟩ (by decide) rfl (op48 0x7#4 (regBits x) nn)

theorem movReg (x : Reg) (y : Reg) : Statement (.movReg x y) :=
  of_row ⟨11, 0xF00F, 0x8000⟩ (by decide) rfl (op4xy4 0x8#4 (regBits x) (regBits y) 0x0#4)

theorem orReg (x : Reg) (y : Reg) : Statement (.orReg x y) :=
  of_row ⟨12, 0xF00F, 0x8001⟩ (by decide) rfl (op4xy4 0x8#4 (regBits x) (regBits y) 0x1#4)

theorem andReg (x : Reg) (y : Reg) : Statement (.andReg x y) :=
  of_row ⟨13, 0xF00F, 0x8002⟩ (by decide) rfl (op4xy4 0x8#4 (regBits x) (regBits y) 0x2#4)

theorem xorReg (x : Reg) (y : Reg) : Statement (.xorReg x y) :=
  of_row ⟨14, 0xF00F, 0x8003⟩ (by decide) rfl (op4xy4 0x8#4 (regBits x) (regBits y) 0x3#4)

theorem addReg (x : Reg) (y : Reg) : Statement (.addReg x y) :=
  of_row ⟨15, 0xF00F, 0x8004⟩ (by decide) rfl (op4xy4 0x8#4 (regBits x) (regBits y) 0x4#4)

theorem subReg (x : Reg) (y : Reg) : Statement (.subReg x y) :=
  of_row ⟨16, 0xF00F, 0x8005⟩ (by decide) rfl (op4xy4 0x8#4 (regBits x) (regBits y) 0x5#4)

theorem shr (x : Reg) (y : Reg) : Statement (.shr x y) :=
  of_row ⟨17, 0xF00F, 0x8006⟩ (by decide) rfl (op4xy4 0x8#4 (regBits x) (regBits y) 0x6#4)

theorem subn (x : Reg) (y : Reg) : Statement (.subn x y) :=
  of_row ⟨18, 0xF00F, 0x8007⟩ (by decide) rfl (op4xy4 0x8#4 (regBits x) (regBits y) 0x7#4)

theorem shl (x : Reg) (y : Reg) : Statement (.shl x y) :=
  of_row ⟨19, 0xF00F, 0x800E⟩ (by decide) rfl (op4xy4 0x8#4 (regBits x) (regBits y) 0xE#4)

theorem sneReg (x : Reg) (y : Reg) : Statement (.sneReg x y) :=
  of_row ⟨20, 0xF00F, 0x9000⟩ (by decide) rfl (op4xy4 0x9#4 (regBits x) (regBits y) 0x0#4)

theorem ldI (nnn : Addr12) : Statement (.ldI nnn) :=
  of_row ⟨21, 0xF000, 0xA000⟩ (by decide) rfl (op12 0xA#4 nnn)

theorem jpV0 (nnn : Addr12) : Statement (.jpV0 nnn) :=
  of_row ⟨22, 0xF000, 0xB000⟩ (by decide) rfl (op12 0xB#4 nnn)

theorem rnd (x : Reg) (nn : Byte) : Statement (.rnd x nn) :=
  of_row ⟨23, 0xF000, 0xC000⟩ (by decide) rfl (op48 0xC#4 (regBits x) nn)

theorem drw (x : Reg) (y : Reg) (n : Nibble) : Statement (.drw x y n) :=
  of_row ⟨24, 0xF000, 0xD000⟩ (by decide) rfl (op4xyn 0xD#4 (regBits x) (regBits y) n)

theorem skp (x : Reg) : Statement (.skp x) :=
  of_row ⟨25, 0xF0FF, 0xE09E⟩ (by decide) rfl (op4x8 0xE#4 (regBits x) 0x9E#8)

theorem sknp (x : Reg) : Statement (.sknp x) :=
  of_row ⟨26, 0xF0FF, 0xE0A1⟩ (by decide) rfl (op4x8 0xE#4 (regBits x) 0xA1#8)

theorem ldVxDt (x : Reg) : Statement (.ldVxDt x) :=
  of_row ⟨27, 0xF0FF, 0xF007⟩ (by decide) rfl (op4x8 0xF#4 (regBits x) 0x07#8)

theorem ldVxKey (x : Reg) : Statement (.ldVxKey x) :=
  of_row ⟨28, 0xF0FF, 0xF00A⟩ (by decide) rfl (op4x8 0xF#4 (regBits x) 0x0A#8)

theorem ldDtVx (x : Reg) : Statement (.ldDtVx x) :=
  of_row ⟨29, 0xF0FF, 0xF015⟩ (by decide) rfl (op4x8 0xF#4 (regBits x) 0x15#8)

theorem ldStVx (x : Reg) : Statement (.ldStVx x) :=
  of_row ⟨30, 0xF0FF, 0xF018⟩ (by decide) rfl (op4x8 0xF#4 (regBits x) 0x18#8)

theorem addIVx (x : Reg) : Statement (.addIVx x) :=
  of_row ⟨31, 0xF0FF, 0xF01E⟩ (by decide) rfl (op4x8 0xF#4 (regBits x) 0x1E#8)

theorem ldFontVx (x : Reg) : Statement (.ldFontVx x) :=
  of_row ⟨32, 0xF0FF, 0xF029⟩ (by decide) rfl (op4x8 0xF#4 (regBits x) 0x29#8)

theorem ldBcdVx (x : Reg) : Statement (.ldBcdVx x) :=
  of_row ⟨33, 0xF0FF, 0xF033⟩ (by decide) rfl (op4x8 0xF#4 (regBits x) 0x33#8)

theorem ldMemVx (x : Reg) : Statement (.ldMemVx x) :=
  of_row ⟨34, 0xF0FF, 0xF055⟩ (by decide) rfl (op4x8 0xF#4 (regBits x) 0x55#8)

theorem ldVxMem (x : Reg) : Statement (.ldVxMem x) :=
  of_row ⟨35, 0xF0FF, 0xF065⟩ (by decide) rfl (op4x8 0xF#4 (regBits x) 0x65#8)

end Sys2Proof.Laws.Encoding
end

