-- ==== Sys2Proof/Laws/Tick.lean ====
section
/-! SUPPORT. What a tick can do (spec/40_execution_step.md R120): the fetch in full, and how a step that answers a next
state came about. -/

namespace Sys2Proof.Machine

/-- The word at the pc as the join of its two bytes (R62). -/
theorem holdsWord_iff {s : State} {w : Word} :
    s.HoldsWord w ↔ s.pc.toNat + 1 < Config.memSize ∧
      w = wordOfBytes (Memory.read s.mem s.pc.toNat) (Memory.read s.mem (s.pc.toNat + 1)) := by
  rw [State.HoldsWord, ← toNat_wordOfBytes, BitVec.toNat_inj]

/-- The fetch of a word whose two bytes are inside memory. -/
theorem fetch_of_holdsWord {s : State} {w : Word} (h : s.HoldsWord w) : s.fetch = .ok w := by
  obtain ⟨hr, rfl⟩ := holdsWord_iff.mp h
  have h0 : s.pc.toNat < Config.memSize := by omega
  simp [State.fetch, State.fetchByte, h0, hr]

/-- A fetch answers a word only where both bytes are inside memory, and it is the word there. -/
theorem holdsWord_of_fetch {s : State} {w : Word} (h : s.fetch = .ok w) : s.HoldsWord w := by
  by_cases hr : s.pc.toNat + 1 < Config.memSize
  · have h0 : s.pc.toNat < Config.memSize := by omega
    simp only [State.fetch, State.fetchByte, if_pos h0, if_pos hr] at h
    injection h with h
    exact holdsWord_iff.mpr ⟨hr, h.symm⟩
  · by_cases h0 : s.pc.toNat < Config.memSize
    · simp only [State.fetch, State.fetchByte, if_pos h0, if_neg hr] at h
      cases h
    · simp only [State.fetch, State.fetchByte, if_neg h0] at h
      cases h

theorem holdsWord_countDownTimers {s : State} {w : Word} : s.countDownTimers.HoldsWord w ↔ s.HoldsWord w := Iff.rfl

theorem holdsWord_beginTick {s : State} {w : Word} : s.beginTick.HoldsWord w ↔ s.HoldsWord w := Iff.rfl

/-- The tick of a running block. -/
theorem tickBody_of_running {s : State} (h : s.Running) : s.beginTick.tickBody = s.beginTick.executeOne :=
  if_neg (by simp [h.2])

/-- The tick of a waiting block. -/
theorem tickBody_of_waiting {s : State} (h : s.Waiting) : s.beginTick.tickBody = .next s.beginTick.waitTick :=
  if_pos (by simp [h.2])

/-- The outcome of the step of a block with no fault recorded is that of its tick's body. -/
theorem step_of_no_fault {s : State} (h : s.fault = none) : step s = s.beginTick.tickBody := by
  simp only [step, tick, h, Option.isSome_none, Bool.false_eq_true, if_false]
  cases s.beginTick.tickBody <;> rfl

/-- A step answers a next state only from a block with no fault recorded, and then its tick gave that state. -/
theorem tickBody_of_step_next {s t : State} (h : step s = .next t) :
    s.fault = none ∧ s.beginTick.tickBody = .next t := by
  cases hf : s.fault with
  | none => exact ⟨rfl, step_of_no_fault hf ▸ h⟩
  | some r =>
    simp only [step, tick, hf, Option.isSome_some, if_true, stepOutcome] at h
    cases h

/-- What an execute branch that answers a next state did: it fetched a word, decoded it and ran the instruction. -/
theorem executeOne_next {s t : State} (h : s.executeOne = .next t) :
    ∃ w i, s.HoldsWord w ∧ decode w = .ok i ∧ exec i s.countDownTimers = .next t := by
  simp only [State.executeOne] at h
  split at h
  · cases h
  · next w hw =>
    simp only [State.dispatchWord] at h
    split at h
    · next i hi => exact ⟨w, i, holdsWord_countDownTimers.mp (holdsWord_of_fetch hw), hi, h⟩
    · cases h

/-- What a step that answers a next state did: a running block executed one instruction, and a waiting block stalled or
resolved its wait. -/
theorem step_next_cases {s t : State} (h : step s = .next t) :
    (s.Running ∧ ∃ w i, s.HoldsWord w ∧ decode w = .ok i ∧ exec i s.atDispatch = .next t) ∨
    (s.Waiting ∧ t = s.beginTick.waitTick) := by
  obtain ⟨hf, hb⟩ := tickBody_of_step_next h
  cases hw : s.wait with
  | false =>
    have hr : s.Running := ⟨hf, hw⟩
    rw [tickBody_of_running hr] at hb
    obtain ⟨w, i, hhold, hdec, hex⟩ := executeOne_next hb
    exact .inl ⟨hr, w, i, holdsWord_beginTick.mp hhold, hdec, hex⟩
  | true =>
    have hr : s.Waiting := ⟨hf, hw⟩
    rw [tickBody_of_waiting hr] at hb
    injection hb with hb
    exact .inr ⟨hr, hb.symm⟩

/-- Placing a word keeps the canonical form. -/
theorem wf_placeWord {m : Memory} (h : Memory.wf m) (a : Nat) (w : Word) : Memory.wf (Memory.placeWord m a w) := by
  unfold Memory.placeWord
  split
  · next ha => exact wf_writeList _ h (by simp only [bytesOfWord, List.length_cons, List.length_nil]; omega)
  · exact h

end Sys2Proof.Machine
end

