-- ==== Sys2Proof/Tests/Slice0.lean ====
section
/-! SUPPORT. The package's own tests: well-formedness, one word of every row of the opcode map written out bit by bit from
spec/30_encoding.md R94, vectors of spec/95_test_vectors.md (named S1, A10, ... in the comments), and for every statement
with hypotheses a witness that meets them. -/

namespace Sys2Proof.Tests
open Sys2Proof.Machine

/-! ## Small states -/

/-- No key held. -/
def noKeys : Vector Bool 16 := Vector.replicate 16 false

/-- Two keys held. -/
def held (a b : Fin 16) : Vector Bool 16 := (noKeys.set a true).set b true

/-- The construction state with a word at 0x200 and the next tick's inputs given. -/
def start (w : Word) (keys : Vector Bool 16 := noKeys) (rnd : Byte := 0) : State :=
  State.placeAtPc { State.reset with inputs := [⟨keys, rnd⟩] } w

/-- A block waiting for a key for V[r], with both timers at 9. -/
def waiting (r : Reg) (keys : Vector Bool 16) : State :=
  { State.reset with wait := true, waitReg := r, DT := 9, ST := 9, inputs := [⟨keys, 0⟩] }

/-- The state after a step; the state itself where the step stops. -/
def after (s : State) : State :=
  match step s with
  | .next t => t
  | _ => s

/-- The fault of a step, if it stops with one. -/
def faultAfter (s : State) : Option Fault :=
  match step s with
  | .fault f => some f
  | _ => none

/-- Three bytes from an address on. -/
def bytes3 (s : State) (a : Nat) : List Byte := (List.range 3).map (fun k => Memory.read s.mem (a + k))

/-! ## Well-formedness (R95): 0x00E0 and 0x00EE are not SYS -/

theorem test_wf_refuses_sys_0E0 : (Instr.sys 0x0E0).wf = false := by decide
theorem test_wf_refuses_sys_0EE : (Instr.sys 0x0EE).wf = false := by decide
theorem test_wf_allows_sys : (Instr.sys 0x0EF).wf = true ∧ (Instr.sys 0).wf = true := by decide

/-! ## Decoding and encoding, one word a row (R94) -/

theorem test_decode_cls : decode 0b0000000011100000 = .ok .cls ∧ encode .cls = 0x00E0 := by decide
theorem test_decode_ret : decode 0b0000000011101110 = .ok .ret ∧ encode .ret = 0x00EE := by decide
theorem test_decode_sys : decode 0b0000000100100011 = .ok (.sys 0x123) ∧ encode (.sys 0x123) = 0x0123 := by decide
theorem test_decode_jp : decode 0b0001001000000100 = .ok (.jp 0x204) ∧ encode (.jp 0x204) = 0x1204 := by decide
theorem test_decode_call : decode 0b0010101010111100 = .ok (.call 0xABC) ∧ encode (.call 0xABC) = 0x2ABC := by decide
theorem test_decode_seImm : decode 0b0011010101000010 = .ok (.seImm 0x5 0x42) ∧ encode (.seImm 0x5 0x42) = 0x3542 := by decide
theorem test_decode_sneImm : decode 0b0100010101000011 = .ok (.sneImm 0x5 0x43) ∧ encode (.sneImm 0x5 0x43) = 0x4543 := by decide
theorem test_decode_seReg : decode 0b0101000100100000 = .ok (.seReg 0x1 0x2) ∧ encode (.seReg 0x1 0x2) = 0x5120 := by decide
theorem test_decode_ldImm : decode 0b0110101001111111 = .ok (.ldImm 0xA 0x7F) ∧ encode (.ldImm 0xA 0x7F) = 0x6A7F := by decide
theorem test_decode_addImm : decode 0b0111111100000101 = .ok (.addImm 0xF 0x05) ∧ encode (.addImm 0xF 0x05) = 0x7F05 := by decide
theorem test_decode_movReg : decode 0b1000000100100000 = .ok (.movReg 0x1 0x2) ∧ encode (.movReg 0x1 0x2) = 0x8120 := by decide
theorem test_decode_orReg : decode 0b1000001111000001 = .ok (.orReg 0x3 0xC) ∧ encode (.orReg 0x3 0xC) = 0x83C1 := by decide
theorem test_decode_andReg : decode 0b1000110000110010 = .ok (.andReg 0xC 0x3) ∧ encode (.andReg 0xC 0x3) = 0x8C32 := by decide
theorem test_decode_xorReg : decode 0b1000000100010011 = .ok (.xorReg 0x1 0x1) ∧ encode (.xorReg 0x1 0x1) = 0x8113 := by decide
theorem test_decode_addReg : decode 0b1000111100010100 = .ok (.addReg 0xF 0x1) ∧ encode (.addReg 0xF 0x1) = 0x8F14 := by decide
theorem test_decode_subReg : decode 0b1000000111110101 = .ok (.subReg 0x1 0xF) ∧ encode (.subReg 0x1 0xF) = 0x81F5 := by decide
theorem test_decode_shr : decode 0b1000101010110110 = .ok (.shr 0xA 0xB) ∧ encode (.shr 0xA 0xB) = 0x8AB6 := by decide
theorem test_decode_subn : decode 0b1000001010010111 = .ok (.subn 0x2 0x9) ∧ encode (.subn 0x2 0x9) = 0x8297 := by decide
theorem test_decode_shl : decode 0b1000011000001110 = .ok (.shl 0x6 0x0) ∧ encode (.shl 0x6 0x0) = 0x860E := by decide
theorem test_decode_sneReg : decode 0b1001100100100000 = .ok (.sneReg 0x9 0x2) ∧ encode (.sneReg 0x9 0x2) = 0x9920 := by decide
theorem test_decode_ldI : decode 0b1010111111111111 = .ok (.ldI 0xFFF) ∧ encode (.ldI 0xFFF) = 0xAFFF := by decide
theorem test_decode_jpV0 : decode 0b1011000100100011 = .ok (.jpV0 0x123) ∧ encode (.jpV0 0x123) = 0xB123 := by decide
theorem test_decode_rnd : decode 0b1100001100001111 = .ok (.rnd 0x3 0x0F) ∧ encode (.rnd 0x3 0x0F) = 0xC30F := by decide
theorem test_decode_drw : decode 0b1101000100100101 = .ok (.drw 0x1 0x2 0x5) ∧ encode (.drw 0x1 0x2 0x5) = 0xD125 := by decide
theorem test_decode_skp : decode 0b1110011110011110 = .ok (.skp 0x7) ∧ encode (.skp 0x7) = 0xE79E := by decide
theorem test_decode_sknp : decode 0b1110100010100001 = .ok (.sknp 0x8) ∧ encode (.sknp 0x8) = 0xE8A1 := by decide
theorem test_decode_ldVxDt : decode 0b1111001100000111 = .ok (.ldVxDt 0x3) ∧ encode (.ldVxDt 0x3) = 0xF307 := by decide
theorem test_decode_ldVxKey : decode 0b1111010100001010 = .ok (.ldVxKey 0x5) ∧ encode (.ldVxKey 0x5) = 0xF50A := by decide
theorem test_decode_ldDtVx : decode 0b1111001000010101 = .ok (.ldDtVx 0x2) ∧ encode (.ldDtVx 0x2) = 0xF215 := by decide
theorem test_decode_ldStVx : decode 0b1111000100011000 = .ok (.ldStVx 0x1) ∧ encode (.ldStVx 0x1) = 0xF118 := by decide
theorem test_decode_addIVx : decode 0b1111111100011110 = .ok (.addIVx 0xF) ∧ encode (.addIVx 0xF) = 0xFF1E := by decide
theorem test_decode_ldFontVx : decode 0b1111101000101001 = .ok (.ldFontVx 0xA) ∧ encode (.ldFontVx 0xA) = 0xFA29 := by decide
theorem test_decode_ldBcdVx : decode 0b1111000000110011 = .ok (.ldBcdVx 0x0) ∧ encode (.ldBcdVx 0x0) = 0xF033 := by decide
theorem test_decode_ldMemVx : decode 0b1111001101010101 = .ok (.ldMemVx 0x3) ∧ encode (.ldMemVx 0x3) = 0xF355 := by decide
theorem test_decode_ldVxMem : decode 0b1111010001100101 = .ok (.ldVxMem 0x4) ∧ encode (.ldVxMem 0x4) = 0xF465 := by decide

/-- E3 to E8: no-op words and illegal words. -/
theorem test_decode_noops : decode 0x00EF = .ok (.sys 0x0EF) ∧ decode 0x0000 = .ok (.sys 0) := by decide
theorem test_decode_illegal : ([0x5121, 0x9121, 0x8008, 0x800D, 0x800F, 0xE09F, 0xE000, 0xF000, 0xF075] : List Word).all
    (fun w => decode w == .error (.unsupportedOpcode w)) = true := by decide

/-- R95: no word matches two rows, but for the rows of 00E0 and 00EE inside 0nnn. -/
theorem test_rows_disjoint : opcodeMap.Pairwise (fun r q => r.mask &&& q.mask &&& r.pat ≠ r.mask &&& q.mask &&& q.pat ∨
    (r.number ≤ 2 ∧ q.number = 3)) := by decide

theorem test_table_word : decodeTableWord 16 0xD125 = some (.drw 1 2 5) ∧ decodeTableWord 16 0x5001 = none := by decide
theorem test_decode_bytes : decodeBytes [0x12, 0x04, 0xFF] = .ok (.jp 0x204, [0xFF]) ∧
    decodeBytes [0x12] = .error .truncated := by decide

/-! ## Memory -/

/-- Writing what an unlisted address reads as removes the entry, and the list stays sorted. -/
theorem test_memory_canonical : Memory.write (Memory.write [(0x300, 7)] 0x250 1) 0x300 0 = [(0x250, 1)] := by decide
theorem test_memory_sorted : Memory.wf (Memory.writeList [(0x301, 7)] 0x300 [1, 2, 3]) := by decide

/-- R63 and R65: the first address out of range. -/
theorem test_range : firstOutOfRange 0xFFE 3 = some 0x1000 ∧ firstOutOfRange 0xFFD 3 = none ∧
    firstOutOfRange 0x1005 0 = none ∧ firstOutOfRange 0x1005 2 = some 0x1005 := by decide

/-! ## The tick (95_test_vectors.md 2.1) -/

/-- T1, T2 and T3. -/
theorem test_tick_countdown : (after { start 0 with DT := 5, ST := 2 }).DT = 4 ∧
    (after { start 0 with DT := 5, ST := 2 }).ST = 1 ∧ (after (start 0)).DT = 0 := by decide
/-- T3 and T4: the snapshot's beep. -/
theorem test_tick_beep : (after { start 0 with ST := 2 }).snapshot.beep = true ∧
    (after { start 0 with ST := 1 }).snapshot.beep = false := by decide
/-- T5: a stall. -/
theorem test_tick_stall : (after (waiting 4 noKeys)).wait = true ∧ (after (waiting 4 noKeys)).DT = 9 := by decide
/-- T6: the least key resolves the wait, and nothing is counted. -/
theorem test_tick_resolution : (after (waiting 4 (held 0xA 2))).v 4 = 2 ∧ (after (waiting 4 (held 0xA 2))).wait = false ∧
    (after (waiting 4 (held 0xA 2))).DT = 9 ∧ (after (waiting 4 (held 0xA 2))).pc = 0x200 := by decide
/-- T8: `changed` is cleared. -/
theorem test_tick_clears_changed : (after { start 0x6000 with changed := true }).changed = false := by decide
/-- T9, T10. -/
theorem test_fetch_fault : faultAfter { start 0 with pc := 0x1000 } = some (.addressOutOfRange none 0x1000 0x1000) ∧
    faultAfter { start 0 with pc := 0xFFF } = some (.addressOutOfRange none 0xFFF 0x1000) := by decide
/-- T11. -/
theorem test_no_tick : faultAfter { start 0 with fault := some ⟨.stackUnderflow, some 0x00EE, 0x200, none⟩ } = some .noTick := by
  decide
/-- S12. -/
theorem test_unsupported : faultAfter (start 0x5001) = some (.unsupportedOpcode 0x5001 0x200) := by decide
/-- The report of R280 for S12. -/
theorem test_report : (Fault.unsupportedOpcode 0x5001 0x200).report = some ⟨.unsupportedOpcode, some 0x5001, 0x200, none⟩ := by
  decide
/-- R287, R322: 3585 bytes do not fit. -/
theorem test_load_bound : Config.loadAddr + 3584 = Config.memSize := by decide

/-! ## Control flow (2.3) -/

/-- C5 and C6. -/
theorem test_ret : (after { start 0x00EE with sp := 1, stack := State.reset.stack.set 0 0x206 }).pc = 0x206 ∧
    (after { start 0x00EE with sp := 1, stack := State.reset.stack.set 0 0x206 }).sp = 0 := by decide
theorem test_ret_empty : faultAfter (start 0x00EE) = some (.stackUnderflow 0x00EE 0x200) := by decide
/-- C18. -/
theorem test_sys : (after (start 0x0123)).pc = 0x202 := by decide
/-- C1 and C2: an odd target is taken as it is. -/
theorem test_jp : (after (start 0x1204)).pc = 0x204 ∧ (after (start 0x1201)).pc = 0x201 := by decide
/-- C3 and C4. -/
theorem test_call : (after (start 0x2210)).stack[0] = 0x202 ∧ (after (start 0x2210)).sp = 1 ∧ (after (start 0x2210)).pc = 0x210 := by
  decide
theorem test_call_full : faultAfter { start 0x2300 with sp := 16 } = some (.stackOverflow 0x2300 0x200) := by decide
/-- C8: the sum is not masked. -/
theorem test_jpV0 : (after ((start 0xBFFF).setV 0 0xFF)).pc = 0x10FE := by decide
/-- C10. -/
theorem test_seImm : (after ((start 0x3542).setV 5 0x42)).pc = 0x204 ∧ (after ((start 0x3543).setV 5 0x42)).pc = 0x202 := by decide
/-- C11. -/
theorem test_sneImm : (after ((start 0x4542).setV 5 0x42)).pc = 0x202 ∧ (after ((start 0x4543).setV 5 0x42)).pc = 0x204 := by decide
/-- C12, with V[1] = 3 and V[2] = 3, and a differing pair. -/
theorem test_seReg : (after (((start 0x5120).setV 1 3).setV 2 3)).pc = 0x204 ∧ (after ((start 0x5120).setV 1 3)).pc = 0x202 := by
  decide
theorem test_sneReg : (after (((start 0x9120).setV 1 3).setV 2 3)).pc = 0x202 ∧ (after ((start 0x9120).setV 1 3)).pc = 0x204 := by
  decide
/-- C15 and C16. -/
theorem test_skp : (after ((start 0xE09E (held 3 3)).setV 0 3)).pc = 0x204 ∧ (after ((start 0xE09E).setV 0 3)).pc = 0x202 := by decide
theorem test_sknp : (after ((start 0xE0A1 (held 3 3)).setV 0 3)).pc = 0x202 ∧ (after ((start 0xE0A1).setV 0 3)).pc = 0x204 := by decide
/-- C17. -/
theorem test_skp_bad_key : faultAfter ((start 0xE09E).setV 0 0x10) = some (.keyIndexOutOfRange 0xE09E 0x200) := by decide
theorem test_sknp_bad_key : faultAfter ((start 0xE0A1).setV 0 0x10) = some (.keyIndexOutOfRange 0xE0A1 0x200) := by decide

/-! ## ALU (2.4) -/

/-- A1. -/
theorem test_ldImm : (after (start 0x6A7F)).v 0xA = 0x7F ∧ (after (start 0x6A7F)).pc = 0x202 := by decide
/-- S1. -/
theorem test_addImm : (after (((start 0x730A).setV 3 250).setV 0xF 0x77)).v 3 = 4 ∧
    (after (((start 0x730A).setV 3 250).setV 0xF 0x77)).v 0xF = 0x77 := by decide
/-- A4: VF as a destination. -/
theorem test_addImm_vf : (after ((start 0x7F05).setV 0xF 0xFE)).v 0xF = 3 := by decide
/-- A5 to A8, with VF kept. -/
theorem test_movReg : (after ((start 0x8120).setV 2 7)).v 1 = 7 := by decide
theorem test_orReg : (after ((((start 0x8121).setV 1 0x0F).setV 2 0xF0).setV 0xF 9)).v 1 = 0xFF ∧
    (after ((((start 0x8121).setV 1 0x0F).setV 2 0xF0).setV 0xF 9)).v 0xF = 9 := by decide
theorem test_andReg : (after (((start 0x8122).setV 1 0x3C).setV 2 0x0F)).v 1 = 0x0C := by decide
theorem test_xorReg : (after (((start 0x8123).setV 1 0xFF).setV 2 0x0F)).v 1 = 0xF0 := by decide
/-- S2 and A15: y is F, and the operand is VF before the flag. -/
theorem test_addReg : (after (((start 0x8014).setV 0 200).setV 1 100)).v 0 = 44 ∧
    (after (((start 0x8014).setV 0 200).setV 1 100)).v 0xF = 1 ∧
    (after (((start 0x81F4).setV 1 3).setV 0xF 2)).v 1 = 5 := by decide
/-- A14: x is F, and the flag stays. -/
theorem test_addReg_vf : (after (((start 0x8F14).setV 0xF 0xFF).setV 1 1)).v 0xF = 1 := by decide
/-- S4 and A17. -/
theorem test_subReg : (after (((start 0x8015).setV 0 5).setV 1 10)).v 0 = 251 ∧
    (after (((start 0x8015).setV 0 5).setV 1 10)).v 0xF = 0 := by decide
theorem test_subReg_equal : (after (((start 0x8125).setV 1 0x80).setV 2 0x80)).v 0xF = 1 := by decide
/-- A22: V[y] is not read. -/
theorem test_shr : (after (((start 0x8126).setV 1 0x05).setV 2 0xFF)).v 1 = 2 ∧
    (after (((start 0x8126).setV 1 0x05).setV 2 0xFF)).v 0xF = 1 := by decide
/-- A24 and A25. -/
theorem test_subn : (after (((start 0x8127).setV 1 10).setV 2 5)).v 1 = 251 ∧ (after (((start 0x8127).setV 1 10).setV 2 5)).v 0xF = 0 ∧
    (after (((start 0x8127).setV 1 5).setV 2 10)).v 0xF = 1 := by decide
/-- A27 and A30. -/
theorem test_shl : (after ((start 0x810E).setV 1 0x81)).v 1 = 2 ∧ (after ((start 0x810E).setV 1 0x81)).v 0xF = 1 ∧
    (after ((start 0x8F0E).setV 0xF 0x80)).v 0xF = 1 := by decide
/-- A31. -/
theorem test_rnd : (after (start 0xC30F noKeys 0xA7)).v 3 = 0x07 := by decide

/-! ## Index register and memory (2.5) -/

/-- M1. -/
theorem test_ldI : (after (start 0xAFFF)).I = 0xFFF := by decide
/-- M3 and M4. -/
theorem test_addIVx : (after { (start 0xF01E).setV 0 3 with I := 0xFFE }).I = 1 ∧
    (after { (start 0xF01E).setV 0 3 with I := 0xFFE }).v 0xF = 1 ∧
    (after { (start 0xF01E).setV 0 0xFF with I := 0xF00 }).v 0xF = 0 := by decide
/-- M7, M8 and M9: the other policies. -/
theorem test_addIVx_policies : indexFlag .setOnly 0x105 = none ∧ indexFlag .setOnly 0x1001 = some 1 ∧
    indexFlag .none 0x1001 = none := by decide
/-- M11: the full byte. -/
theorem test_ldFontVx : (after ((start 0xF029).setV 0 0xFF)).I = 0x4FB := by decide
/-- S9 and M15. -/
theorem test_ldBcdVx : bytes3 (after { (start 0xF033).setV 0 234 with I := 0x300 }) 0x300 = [2, 3, 4] ∧
    bytes3 (after { (start 0xF033).setV 0 1 with I := 0xFFD }) 0xFFD = [0, 0, 1] := by decide
/-- M16 and M17. -/
theorem test_ldBcdVx_faults : faultAfter { start 0xF033 with I := 0xFFE } = some (.addressOutOfRange (some 0xF033) 0x200 0x1000) ∧
    faultAfter { start 0xF033 with I := 0x04F } = some (.protectedWrite 0xF033 0x200 0x04F) := by decide
/-- S8's dump: x is inclusive, and I is kept. -/
theorem test_ldMemVx : bytes3 (after { ((start 0xF155).setV 0 0x11).setV 1 0x22 with I := 0x300 }) 0x300 = [0x11, 0x22, 0] ∧
    (after { ((start 0xF155).setV 0 0x11).setV 1 0x22 with I := 0x300 }).I = 0x300 := by decide
/-- M21 and M22. -/
theorem test_ldMemVx_faults : faultAfter { start 0xFF55 with I := 0xFF1 } = some (.addressOutOfRange (some 0xFF55) 0x200 0x1000) ∧
    faultAfter { start 0xF055 with I := 0 } = some (.protectedWrite 0xF055 0x200 0) := by decide
/-- M23, on the default font (G1). -/
theorem test_ldVxMem : (after (start 0xF465)).v 0 = 0xF0 ∧ (after (start 0xF465)).v 1 = 0x90 ∧ (after (start 0xF465)).v 4 = 0xF0 ∧
    (after (start 0xF465)).v 5 = 0 := by decide
/-- M25. -/
theorem test_ldVxMem_fault : faultAfter { start 0xF165 with I := 0xFFF } = some (.addressOutOfRange (some 0xF165) 0x200 0x1000) := by
  decide

/-! ## Timers and key wait (2.6) -/

/-- K1. -/
theorem test_ldVxDt : (after { start 0xF307 with DT := 5 }).v 3 = 4 ∧ (after { start 0xF307 with DT := 5 }).DT = 4 := by decide
/-- K3. -/
theorem test_ldDtVx : (after { (start 0xF215).setV 2 3 with DT := 9 }).DT = 3 := by decide
/-- K4 and K5. -/
theorem test_ldStVx : (after ((start 0xF118).setV 1 1)).snapshot.beep = true ∧ (after { start 0xF118 with ST := 5 }).ST = 0 := by decide
/-- K6: a key held on this tick is not looked at. -/
theorem test_ldVxKey : (after (start 0xF50A (held 3 3))).wait = true ∧ (after (start 0xF50A (held 3 3))).waitReg = 5 ∧
    (after (start 0xF50A (held 3 3))).v 5 = 0 ∧ (after (start 0xF50A (held 3 3))).pc = 0x202 := by decide

/-! ## Display (2.7) -/

/-- S6, on a screen with one cell set. -/
theorem test_cls : (after { start 0x00E0 with fb := Framebuffer.blank.flip 3 4 }).fb.cell 3 4 = false ∧
    (after { start 0x00E0 with fb := Framebuffer.blank.flip 3 4 }).changed = true := by decide
/-- D2: horizontal wrap, with the sprite byte 0xFF at 0x300. -/
theorem test_drw_wrap : let s := after { (start 0xD011).setV 0 62 with I := 0x300, mem := [(0x200, 0xD0), (0x201, 0x11), (0x300, 0xFF)] }
    s.fb.cell 0 62 = true ∧ s.fb.cell 0 63 = true ∧ s.fb.cell 0 5 = true ∧ s.fb.cell 0 6 = false ∧ s.v 0xF = 0 := by decide
/-- D6: collision, most significant bit first. -/
theorem test_drw_collision : let s := after { start 0xD011 with
      I := 0x300, mem := [(0x200, 0xD0), (0x201, 0x11), (0x300, 0x81)], fb := Framebuffer.blank.flip 0 0 }
    s.fb.cell 0 0 = false ∧ s.fb.cell 0 7 = true ∧ s.v 0xF = 1 ∧ s.changed = true := by decide

/-! ## Witnesses: every statement's hypotheses met together -/

/-- A tick's result is a report. -/
def reports (s : State) (f : Fault) : Prop := tick s = .report f (s.afterFault f)

theorem witness_DecodeOfEncode : (Instr.sys 0x0EF).wf = true := by decide
theorem witness_EncodeOfDecode : decode 0x8AB6 = .ok (.shr 0xA 0xB) := by decide
theorem witness_DecodeFollowsOpcodeMap : firstRow 0x8AB6 = some ⟨17, 0xF00F, 0x8006⟩ ∧ firstRow 0x5001 = none := by decide
theorem witness_IllegalWordsAreExactly : decode 0x8AB8 = .error (.unsupportedOpcode 0x8AB8) := by decide

theorem witness_StepRunsDecodedInstruction :
    (start 0x2210).Running ∧ (start 0x2210).HoldsWord 0x2210 ∧ decode 0x2210 = .ok (.call 0x210) :=
  ⟨⟨rfl, rfl⟩, ⟨by decide, by decide⟩, by decide⟩
theorem witness_FetchedWordIsDecodedByTheMap :
    ((start 0x5001).Running ∧ (start 0x5001).HoldsWord 0x5001 ∧ firstRow 0x5001 = none) ∧
    ((start 0xF165).Running ∧ (start 0xF165).HoldsWord 0xF165 ∧ firstRow 0xF165 = some ⟨35, 0xF0FF, 0xF065⟩) :=
  ⟨⟨⟨rfl, rfl⟩, ⟨by decide, by decide⟩, by decide⟩, ⟨⟨rfl, rfl⟩, ⟨by decide, by decide⟩, by decide⟩⟩
theorem witness_FetchOutOfRangeFaults : State.Running { start 0 with pc := 0xFFF } ∧ 0xFFF ≤ (0xFFF : Word).toNat :=
  ⟨⟨rfl, rfl⟩, by decide⟩
theorem witness_KeySnapshotReplacesKeys :
    step (start 0x1204) = .next (after (start 0x1204)) ∧ (waiting 4 (held 2 3)).Waiting ∧
    step (waiting 4 (held 2 3)) = .next (after (waiting 4 (held 2 3))) ∧ (start 0x1204).inputs = ⟨noKeys, 0⟩ :: [] :=
  ⟨by rfl, ⟨rfl, rfl⟩, by rfl, rfl⟩
theorem witness_StallChangesOnlyKeysAndChanged :
    (waiting 4 noKeys).Waiting ∧ ∀ k : Fin 16, (waiting 4 noKeys).tickInput.keys[k] = false :=
  ⟨⟨rfl, rfl⟩, by decide⟩
theorem witness_ResolutionWritesLeastKey :
    (waiting 0xF (held 0xF 0xF)).Waiting ∧ (waiting 0xF (held 0xF 0xF)).tickInput.keys[(15 : Fin 16)] = true ∧
    ∀ j : Fin 16, j < 15 → (waiting 0xF (held 0xF 0xF)).tickInput.keys[j] = false :=
  ⟨⟨rfl, rfl⟩, by decide, by decide⟩
theorem witness_LatchStateMachine :
    ((start 0xFF0A).Running ∧ (start 0xFF0A).HoldsWord 0xFF0A ∧ decode 0xFF0A = .ok (.ldVxKey 0xF) ∧
      step (start 0xFF0A) = .next (after (start 0xFF0A))) ∧
    ((start 0x0000).Running ∧ (start 0x0000).HoldsWord 0x0000 ∧ decode 0x0000 = .ok (.sys 0) ∧
      step (start 0x0000) = .next (after (start 0x0000))) ∧
    ((start 0x00EE).Running ∧ reports (start 0x00EE) (.stackUnderflow 0x00EE 0x200)) ∧
    ((waiting 4 noKeys).Waiting ∧ step (waiting 4 noKeys) = .next (after (waiting 4 noKeys))) :=
  ⟨⟨⟨rfl, rfl⟩, ⟨by decide, by decide⟩, by decide, by rfl⟩, ⟨⟨rfl, rfl⟩, ⟨by decide, by decide⟩, by decide, by rfl⟩,
    ⟨⟨rfl, rfl⟩, by unfold reports; rfl⟩, ⟨rfl, rfl⟩, by rfl⟩
theorem witness_TimersCountExecuteTicks :
    ((start 0x0000).Running ∧ (start 0x0000).HoldsWord 0x0000 ∧ decode 0x0000 = .ok (.sys 0) ∧
      step (start 0x0000) = .next (after (start 0x0000))) ∧
    ((waiting 4 noKeys).Waiting ∧ step (waiting 4 noKeys) = .next (after (waiting 4 noKeys))) :=
  ⟨⟨⟨rfl, rfl⟩, ⟨by decide, by decide⟩, by decide, by rfl⟩, ⟨rfl, rfl⟩, by rfl⟩
theorem witness_ChangedReportsThisTick : step (start 0x00E0) = .next (after (start 0x00E0)) := by rfl
theorem witness_SnapshotOfTick : tick (start 0x00E0) = .snapshot (after (start 0x00E0)).snapshot (after (start 0x00E0)) ∧
    (waiting 4 noKeys).Waiting := ⟨by rfl, rfl, rfl⟩
theorem witness_HaltedBlockTakesNoTick :
    State.fault { start 0 with fault := some ⟨.stackUnderflow, some 0x00EE, 0x200, none⟩ } ≠ none := by decide
theorem witness_FaultingTickWritesNothing : reports (start 0x00EE) (.stackUnderflow 0x00EE 0x200) := by unfold reports; rfl

theorem witness_InstructionFaultsExactlyAsListed :
    faultOf (.ldBcdVx 0) { State.reset with I := 0xFFD } = none ∧
    faultOf (.ldBcdVx 0) { State.reset with I := 0xFFE } = some (.addressOutOfRange (some 0xF033) 0x200 0x1000) ∧
    faultOf (.ldMemVx 0) { State.reset with I := 0x04F } = some (.protectedWrite 0xF055 0x200 0x04F) ∧
    faultOf (.drw 0 0 0) { State.reset with I := 0xFFF } = none := by decide
theorem witness_PcFollowsTable :
    exec (.jpV0 0xFFF) (State.reset.setV 0 0xFF) = .next ((State.reset.setV 0 0xFF).setPc 0x10FE) ∧
    (waiting 4 noKeys).Waiting ∧ step (waiting 4 noKeys) = .next (after (waiting 4 noKeys)) := ⟨by rfl, ⟨rfl, rfl⟩, by rfl⟩

/-- The state after an instruction; the state itself where it stops. -/
def run (i : Instr) (s : State) : State :=
  match exec i s with
  | .next t => t
  | _ => s

/-- The construction state with I at 0x300. -/
def at300 : State := { State.reset with I := 0x300 }

theorem witness_MemoryFrame : exec (.ldBcdVx 0) at300 = .next (run (.ldBcdVx 0) at300) ∧
    ¬ (at300.I.toNat ≤ 0x303 ∧ 0x303 < at300.I.toNat + storeWidth (.ldBcdVx 0)) := ⟨by rfl, by decide⟩
theorem witness_RegisterFrame : exec (.addReg 1 2) at300 = .next (run (.addReg 1 2) at300) ∧ mayWriteReg (.addReg 1 2) 2 = false :=
  ⟨by rfl, by decide⟩
theorem witness_OnlyClearAndDrawTouchFramebuffer :
    (exec (.jp 0) at300 = .next (run (.jp 0) at300) ∧ isDraw (.jp 0) = false) ∧
    (exec (.drw 0 0 1) at300 = .next (run (.drw 0 0 1) at300) ∧ isDraw (.drw 0 0 1) = true) ∧
    reports { start 0xD002 with I := 0xFFF } (.addressOutOfRange (some 0xD002) 0x200 0x1000) :=
  ⟨⟨by rfl, by decide⟩, ⟨by rfl, by decide⟩, by unfold reports; rfl⟩
theorem witness_OnlyCallAndReturnTouchStack :
    (exec (.jp 0) at300 = .next (run (.jp 0) at300) ∧ isStackUser (.jp 0) = false) ∧
    (exec (.call 0) at300 = .next (run (.call 0) at300) ∧ (run (.call 0) at300).stack[(0 : Fin 16)] ≠ at300.stack[(0 : Fin 16)]) :=
  ⟨⟨by rfl, by decide⟩, by rfl, by decide⟩
theorem witness_WritersOfIndexTimersAndLatch : exec (.ldVxMem 3) at300 = .next (run (.ldVxMem 3) at300) ∧
    isIndexWriter (.ldVxMem 3) = false := ⟨by rfl, by decide⟩

theorem witness_StepKeepsInvariant : (start 0x2210).Inv ∧ step (start 0x2210) = .next (after (start 0x2210)) :=
  ⟨⟨by decide, by decide, by decide, by decide⟩, by rfl⟩
theorem witness_StepKeepsFontRegion : step { start 0xF033 with I := 0x050 } = .next (after { start 0xF033 with I := 0x050 }) := by rfl
theorem witness_LoadCopiesProgram : ([0x12, 0x00] : List Byte).length ≤ 3584 ∧ 3584 < (List.replicate 3585 (0 : Byte)).length :=
  ⟨by decide, by rw [List.length_replicate]; decide⟩
/-- A program of two bytes, one of a single byte (its word is that byte and then 0), and one of none. -/
theorem witness_FirstTickExecutesLoadedWord :
    (∃ t, State.reset.load [0x12, 0x34] = .next t ∧
      (0x1234 : Word).toNat = 256 * (Memory.read t.mem 0x200).toNat + (Memory.read t.mem 0x201).toNat ∧
      decode 0x1234 = .ok (.jp 0x234)) ∧
    (∃ t, State.reset.load [0x12] = .next t ∧
      (0x1200 : Word).toNat = 256 * (Memory.read t.mem 0x200).toNat + (Memory.read t.mem 0x201).toNat ∧
      decode 0x1200 = .ok (.jp 0x200)) ∧
    (∃ t, State.reset.load [] = .next t) ∧ (∃ f t, (State.construct f).load [0x12] = .next t) :=
  ⟨⟨_, by rfl, by decide, by decide⟩, ⟨_, by rfl, by decide, by decide⟩, ⟨_, by rfl⟩, defaultFont, _, by rfl⟩

theorem witness_ReturnPops : 0 < State.sp { State.reset with sp := 16 } ∧ State.reset.sp.val = 0 ∧
    (15 : Fin 16).val + 1 = (State.sp { State.reset with sp := 16 }).val ∧
    reports (start 0x00EE) (.stackUnderflow 0x00EE 0x200) := ⟨by decide, rfl, by decide, by unfold reports; rfl⟩
theorem witness_CallPushesReturnAddress : (State.sp { State.reset with sp := 15 }).val < 16 ∧
    (State.sp { State.reset with sp := 16 }).val = 16 := by decide
theorem witness_ReturnFollowsCall : ∃ t, exec (.call 0x210) State.reset = .next t ∧ t.sp = t.sp ∧ t.stack = t.stack :=
  ⟨_, by rfl, rfl, rfl⟩
theorem witness_SkipOnRegisters : (0xF : Nibble) ≠ 0 := by decide
theorem witness_SkipOnKey : ((State.reset.setV 0 0xF).v 0).toNat = (15 : Fin 16).val ∧ 16 ≤ ((State.reset.setV 0 0x10).v 0).toNat := by
  decide
theorem witness_AddImmediateWithoutFlag : (0xF : Reg) ≠ 3 := by decide
theorem witness_MoveAndLogic :
    Instr.xorReg 1 2 = .xorReg 1 2 ∧ Instr.orReg 1 2 = .orReg 1 2 ∧ Instr.andReg 1 2 = .andReg 1 2 ∧ Instr.movReg 1 2 = .movReg 1 2 ∧
    (0 : Byte) = State.reset.v 1 ^^^ State.reset.v 2 ∧ (0 : Byte) = State.reset.v 1 ||| State.reset.v 2 ∧
    (0 : Byte) = State.reset.v 1 &&& State.reset.v 2 ∧ (0 : Byte) = State.reset.v 2 := by decide
theorem witness_StoreDecimalDigits : (0x050 ≤ (0x050 : Word).toNat ∧ (0x050 : Word).toNat + 2 < 0x1000) ∧
    (0x050 ≤ (0xFFD : Word).toNat ∧ (0xFFD : Word).toNat + 2 < 0x1000) := by decide
theorem witness_StoreRegisters : (0x050 ≤ (0x050 : Word).toNat ∧ (0x050 : Word).toNat + (15 : Reg).val < 0x1000) ∧
    (0x050 ≤ (0xFF0 : Word).toNat ∧ (0xFF0 : Word).toNat + (15 : Reg).val < 0x1000) ∧ (15 : Reg) ≤ 15 := by decide
theorem witness_LoadRegisters : State.I { State.reset with I := 0xFF0 } = 0xFF0 ∧ (0xFF0 : Word).toNat + (15 : Reg).val < 0x1000 := by
  decide
theorem witness_DumpThenLoadRestores : exec (.ldMemVx 3) at300 = .next (run (.ldMemVx 3) at300) ∧
    (run (.ldMemVx 3) at300).I = at300.I := ⟨by rfl, by decide⟩
theorem witness_DelayTimerTransfers : (start 0xF215).Running ∧ (start 0xF215).HoldsWord (encode (.ldDtVx 2)) ∧
    step (start 0xF215) = .next (after (start 0xF215)) := ⟨⟨rfl, rfl⟩, ⟨by decide, by decide⟩, by rfl⟩
theorem witness_WriteSoundTimer : (start 0xF118).Running ∧ (start 0xF118).HoldsWord (encode (.ldStVx 1)) ∧
    tick (start 0xF118) = .snapshot (after (start 0xF118)).snapshot (after (start 0xF118)) :=
  ⟨⟨rfl, rfl⟩, ⟨by decide, by decide⟩, by rfl⟩
theorem witness_KeyWaitSetsLatch : ((start 0xF50A).Running ∧ (start 0xF50A).HoldsWord (0xF#4 ++ regBits 5 ++ 0x0A#8) ∧
      step (start 0xF50A) = .next (after (start 0xF50A))) ∧
    ((waiting 4 noKeys).Waiting ∧ step (waiting 4 noKeys) = .next (after (waiting 4 noKeys))) :=
  ⟨⟨⟨rfl, rfl⟩, ⟨by decide, by decide⟩, by rfl⟩, ⟨rfl, rfl⟩, by rfl⟩
theorem witness_DrawXorsSprite : ((0 : Nibble) = 0 ∨ (0x1000 : Word).toNat + (0 : Nibble).toNat ≤ 0x1000) ∧
    (0xFF1 : Word).toNat + (0xF : Nibble).toNat ≤ 0x1000 ∧
    (at300.fb.flip 0 0).cell 0 0 = true ∧ spriteBit [0x80] 0 0 0 0 = true := by decide
theorem witness_DrawTwiceRestores : (0 : Reg) ≠ 0xF ∧ (1 : Reg) ≠ 0xF ∧ exec (.drw 0 1 5) State.reset = .next (run (.drw 0 1 5) State.reset) :=
  ⟨by decide, by decide, by rfl⟩

/-- A fault of the instruction, and a fault of the fetch. -/
theorem witness_ReportOfEachFault : reports (start 0x00EE) (.stackUnderflow 0x00EE 0x200) ∧
    reports { start 0 with pc := 0xFFF } (.addressOutOfRange none 0xFFF 0x1000) :=
  ⟨by unfold reports; rfl, by unfold reports; rfl⟩

/-- A FONT that is not the default: the first two rows of glyph A differ. -/
def otherFont : Font := (defaultFont.set 50 0x3C).set 51 0x42

/-- The block constructed with that FONT, a word at 0x200, and no key held on the next tick. -/
def startOther (w : Word) : State := State.placeAtPc { State.construct otherFont with inputs := [⟨noKeys, 0⟩] } w

/-- P6: "With another `FONT` the rows are `FONT[50..54]`": Fx65 from there, and Fx29 of 0x0A points there as before. -/
theorem test_otherFont : (after { startOther 0xF465 with I := 0x032 }).v 0 = 0x3C ∧
    (after { startOther 0xF465 with I := 0x032 }).v 1 = 0x42 ∧ (after { startOther 0xF465 with I := 0x032 }).v 2 = 0xF0 ∧
    (after ((startOther 0xF029).setV 0 0x0A)).I = 0x032 := by decide +kernel

/-- A state constructed with a FONT of its own, and the state after reset. -/
theorem witness_ConstructionState : (∃ f, State.construct otherFont = State.construct f) ∧
    State.construct otherFont ≠ State.reset ∧ State.construct defaultFont = State.reset :=
  ⟨⟨_, rfl⟩, fun h => absurd (congrArg (fun s => Memory.read s.mem 50) h) (by decide +kernel),
    construct_defaultFont⟩

end Sys2Proof.Tests
end

section
/-! The wait tick of spec/40_execution_step.md: the stall of a waiting block while no key is held (R125). -/

namespace Sys2Proof.Machine

/-- A wait tick runs no instruction and always completes (R124, R125, R126). -/
theorem step_of_waiting {s : State} (h : s.Waiting) : step s = .next s.beginTick.waitTick :=
  (step_of_no_fault h.1).trans (tickBody_of_waiting h)

/-- Without a held key the wait branch is a stall (R125). -/
theorem waitTick_of_no_key {s : State} (h : ∀ k : Fin 16, s.keys[k] = false) : s.waitTick = s := by
  rw [State.waitTick, firstKey_eq_none.mpr h]

/-- The start of a tick takes the inputs and, but for clearing `changed`, does nothing else (R120 to R123). -/
theorem onlyInputsTaken_beginTick (s : State) : s.OnlyInputsTaken s.beginTick := rfl

/-- Settles O10: the tick is `beginTick` followed by the wait branch, which with no key held changes nothing. -/
theorem stallChangesOnlyKeysAndChanged : Obligations.StallChangesOnlyKeysAndChanged := by
  intro s hwait hkeys
  have hstall : s.beginTick.waitTick = s.beginTick := waitTick_of_no_key hkeys
  have hstep : step s = .next s.beginTick := by rw [step_of_waiting hwait, hstall]
  exact ⟨s.beginTick, hstep, onlyInputsTaken_beginTick s⟩

end Sys2Proof.Machine
end

section
/-! The skips on two registers of spec/41_control_flow.md: 5xy0 and 9xy0 (R157, R158). -/

namespace Sys2Proof

/-- The words 5xyn: row 8 of R94 where n is 0, no row elsewhere (R96). -/
theorem decode_5xyn (x y : Reg) (n : Nibble) :
    decode (0x5#4 ++ regBits x ++ regBits y ++ n) =
      if n = 0 then .ok (.seReg x y)
      else .error (.unsupportedOpcode (0x5#4 ++ regBits x ++ regBits y ++ n)) := by
  simp [decode]

/-- The words 9xyn: row 20 of R94 where n is 0, no row elsewhere (R96). -/
theorem decode_9xyn (x y : Reg) (n : Nibble) :
    decode (0x9#4 ++ regBits x ++ regBits y ++ n) =
      if n = 0 then .ok (.sneReg x y)
      else .error (.unsupportedOpcode (0x9#4 ++ regBits x ++ regBits y ++ n)) := by
  simp [decode]

namespace Machine

/-- A skip moves the pc by the condition its test decides, and changes nothing else. -/
theorem skipIf_of_iff (s : State) {c : Bool} {p : Prop} [Decidable p] (h : c = true ↔ p) :
    s.skipIf c = { s with pc := if p then s.pc + 4 else s.pc + 2 } := by
  simp only [State.skipIf, State.setPc, h]

/-- 5xy0 skips where the two registers are equal (R157). -/
theorem exec_seReg (x y : Reg) (s : State) :
    exec (.seReg x y) s = .next { s with pc := if s.v x = s.v y then s.pc + 4 else s.pc + 2 } :=
  congrArg Host.Outcome.next (skipIf_of_iff s beq_iff_eq)

/-- 9xy0 skips where the two registers differ (R158). -/
theorem exec_sneReg (x y : Reg) (s : State) :
    exec (.sneReg x y) s = .next { s with pc := if s.v x ≠ s.v y then s.pc + 4 else s.pc + 2 } :=
  congrArg Host.Outcome.next (skipIf_of_iff s bne_iff_ne)

/-- Settles O38: both opcode groups are decoded by their low nibble, and each skip is one move of the pc. -/
theorem skipOnRegisters : Obligations.SkipOnRegisters := by
  constructor
  · intro x y
    have hse := (decode_5xyn x y 0).trans (if_pos rfl)
    have hsne := (decode_9xyn x y 0).trans (if_pos rfl)
    exact ⟨hse, hsne, fun s => ⟨exec_seReg x y s, exec_sneReg x y s⟩⟩
  · intro x y n hn
    exact ⟨(decode_5xyn x y n).trans (if_neg hn), (decode_9xyn x y n).trans (if_neg hn)⟩

end Machine
end Sys2Proof
end

section
/-! The immediate forms of spec/42_alu.md: 6xnn and 7xnn (R182, R183). -/

namespace Sys2Proof

/-- The words 6xnn: row 9 of R94. -/
theorem decode_6xnn (x : Reg) (nn : Byte) : decode (0x6#4 ++ regBits x ++ nn) = .ok (.ldImm x nn) := by
  simp [decode]

/-- The words 7xnn: row 10 of R94. -/
theorem decode_7xnn (x : Reg) (nn : Byte) : decode (0x7#4 ++ regBits x ++ nn) = .ok (.addImm x nn) := by
  simp [decode]

namespace Machine

/-- A result without a flag is one register write: VF is an ordinary destination (R182, R183). -/
@[simp] theorem v_assign (s : State) (x q : Reg) (b : Byte) :
    (s.assign x b).v q = if q = x then b else s.v q :=
  v_setV s x q b

/-- A result without a flag writes V and moves the pc to the next word, and nothing else. -/
theorem assign_frame (s : State) (x : Reg) (b : Byte) :
    s.assign x b = { s with V := (s.assign x b).V, pc := s.pc + 2 } := rfl

/-- 6xnn assigns the immediate byte (R182). -/
theorem exec_ldImm (x : Reg) (nn : Byte) (s : State) : exec (.ldImm x nn) s = .next (s.assign x nn) := rfl

/-- 7xnn assigns the byte sum (R183). -/
theorem exec_addImm (x : Reg) (nn : Byte) (s : State) :
    exec (.addImm x nn) s = .next (s.assign x (s.v x + nn)) := rfl

/-- Settles O40: 6xnn is one flagless assignment, so VF is written exactly where it is the destination. -/
theorem loadImmediate : Obligations.LoadImmediate := by
  intro x nn
  refine ⟨decode_6xnn x nn, fun s => ?_⟩
  exact ⟨s.assign x nn, exec_ldImm x nn s, fun r => v_assign s x r nn, assign_frame s x nn⟩

/-- Settles O41: 7xnn is one flagless assignment of the byte sum, whose value is the sum mod 256. -/
theorem addImmediateWithoutFlag : Obligations.AddImmediateWithoutFlag := by
  intro x nn
  refine ⟨decode_7xnn x nn, fun s => ⟨s.assign x (s.v x + nn), exec_addImm x nn s, ?_, ?_, assign_frame s x _⟩⟩
  · have hdest : (s.assign x (s.v x + nn)).v x = s.v x + nn := (v_assign s x x _).trans (if_pos rfl)
    rw [hdest]
    exact BitVec.toNat_add (s.v x) nn
  · intro r hr
    exact (v_assign s x r _).trans (if_neg hr)

end Machine
end Sys2Proof
end

section
/-! The load of the index register of spec/43_index_memory.md: Annn (R210). -/

namespace Sys2Proof

/-- The words Annn: row 21 of R94. -/
theorem decode_Annn (nnn : Addr12) : decode (0xA#4 ++ nnn) = .ok (.ldI nnn) := by
  simp [decode]

namespace Machine

/-- A write of I followed by the move to the next word changes I and the pc, and nothing else. -/
theorem advance_setI (s : State) (w : Word) : (s.setI w).advance = { s with I := w, pc := s.pc + 2 } := rfl

/-- Annn writes the zero-extended operand to I, with no test of its value (R210). -/
theorem exec_ldI (nnn : Addr12) (s : State) : exec (.ldI nnn) s = .next (s.setI (zextAddr nnn)).advance := rfl

/-- Settles O47: Annn is one unconditional write of I, so every 12-bit value is allowed. -/
theorem loadIndex : Obligations.LoadIndex := by
  intro nnn
  refine ⟨decode_Annn nnn, fun s => ?_⟩
  rw [exec_ldI, advance_setI, zextAddr]

end Machine
end Sys2Proof
end

section
/-! The clear of spec/45_display.md: 00E0 (R261). -/

namespace Sys2Proof

/-- The word 00E0: row 1 of R94, matched before row 3 (R95). -/
theorem decode_00E0 : decode 0x00E0 = .ok .cls := rfl

namespace Machine

/-- 00E0 puts the blank framebuffer in place, with no test of the old one (R261). -/
theorem exec_cls (s : State) : exec .cls s = .next (s.setFb Framebuffer.blank).advance := rfl

/-- A framebuffer put in place changes it, `changed` and the pc, and nothing else. -/
theorem advance_setFb (s : State) (fb : Framebuffer) :
    (s.setFb fb).advance = { s with fb := fb, changed := true, pc := s.pc + 2 } := rfl

/-- Settles O57: 00E0 is one unconditional write of the blank framebuffer. -/
theorem clearScreen : Obligations.ClearScreen := by
  refine ⟨decode_00E0, fun s => ⟨(s.setFb Framebuffer.blank).advance, exec_cls s, ?_, ?_⟩⟩
  · intro Y X
    exact cell_blank Y X
  · exact advance_setFb s Framebuffer.blank

end Machine
end Sys2Proof
end

section
/-! The writers of the framebuffer and of `changed` (spec/45_display.md R264). -/

namespace Sys2Proof.Machine

/-- The next state holds `P`, where the answer gives one: what an instruction does when it completes, with its faults set
aside. -/
def NextSatisfies (P : State → Prop) (a : Answer) : Prop := ∀ t, a = .next t → P t

/-- The display of `s`, its framebuffer and its flag, stands in `t` too. -/
def State.SameDisplay (s t : State) : Prop := t.fb = s.fb ∧ t.changed = s.changed

section
variable {P : State → Prop}

theorem nextSatisfies_next {t : State} (h : P t) : NextSatisfies P (.next t) := by
  rintro _ ⟨⟩
  exact h

theorem nextSatisfies_fault (f : Fault) : NextSatisfies P (.fault f) := by
  rintro _ ⟨⟩

theorem nextSatisfies_ite {c : Prop} [Decidable c] {a b : Answer} (ha : NextSatisfies P a) (hb : NextSatisfies P b) :
    NextSatisfies P (if c then a else b) := by
  split
  · exact ha
  · exact hb

/-- One guard before one next state, as RET, CALL and the key skips have it. -/
theorem nextSatisfies_guard {c : Prop} [Decidable c] {t : c → State} {f : Fault} (h : ∀ hc, P (t hc)) :
    NextSatisfies P (if hc : c then .next (t hc) else .fault f) := by
  split
  · exact nextSatisfies_next (h _)
  · exact nextSatisfies_fault f

/-- The stores: in range, and then not in the font region. -/
theorem nextSatisfies_store {inRange inFont : Prop} [Decidable inRange] [Decidable inFont] {t : State} {f g : Fault}
    (h : P t) : NextSatisfies P (if inRange then if inFont then .fault f else .next t else .fault g) :=
  nextSatisfies_ite (nextSatisfies_ite (nextSatisfies_fault f) (nextSatisfies_next h)) (nextSatisfies_fault g)

theorem nextSatisfies_of_eq {a b : Answer} (e : a = b) (h : NextSatisfies P b) : NextSatisfies P a := e ▸ h

end

/-- The flag of Fx1E, written or not, is a write of V (R211). -/
theorem setVFlag?_frame (s : State) (b : Option Byte) : s.setVFlag? b = { s with V := (s.setVFlag? b).V } := by
  cases b <;> rfl

/-- Fx1E keeps the display, under every policy for VF (D10). -/
theorem sameDisplay_addIndex (s : State) (policy : Fx1ePolicy) (x : Reg) :
    s.SameDisplay (s.addIndex policy x) := by
  rw [State.addIndex, setVFlag?_frame]
  exact ⟨rfl, rfl⟩

/-- Registers loaded from memory keep the display. -/
theorem sameDisplay_loadRegs (s : State) (k : Nat) (bs : List Byte) : s.SameDisplay (s.loadRegs k bs) := by
  rw [loadRegs_frame]
  exact ⟨rfl, rfl⟩

/-- Every instruction but 00E0 and Dxyn keeps the display. The cases named are those that can fault, by their laws in
Laws/Exec.lean, and Fx1E; the others write a register, I, a timer, the latch or the pc outright (R264). -/
theorem exec_keeps_display {i : Instr} (hi : isDraw i = false) (s : State) : NextSatisfies s.SameDisplay (exec i s) := by
  cases i with
  | cls | drw => cases hi
  | ret => exact nextSatisfies_of_eq (execRet_eq s) (nextSatisfies_guard fun _ => ⟨rfl, rfl⟩)
  | call nnn => exact nextSatisfies_of_eq (execCall_eq nnn s) (nextSatisfies_guard fun _ => ⟨rfl, rfl⟩)
  | skp x => exact nextSatisfies_of_eq (execSkp_eq x s) (nextSatisfies_guard fun _ => ⟨rfl, rfl⟩)
  | sknp x => exact nextSatisfies_of_eq (execSknp_eq x s) (nextSatisfies_guard fun _ => ⟨rfl, rfl⟩)
  | ldBcdVx x => exact nextSatisfies_of_eq (execLdBcdVx_eq x s) (nextSatisfies_store ⟨rfl, rfl⟩)
  | ldMemVx x => exact nextSatisfies_of_eq (execLdMemVx_eq x s) (nextSatisfies_store ⟨rfl, rfl⟩)
  | ldVxMem x =>
    refine nextSatisfies_of_eq (execLdVxMem_eq x s) (nextSatisfies_ite ?_ (nextSatisfies_fault _))
    exact nextSatisfies_next (sameDisplay_loadRegs s 0 _)
  | addIVx x => exact nextSatisfies_next (sameDisplay_addIndex s fx1ePolicy x)
  | _ => exact nextSatisfies_next ⟨rfl, rfl⟩

/-- A clear or a draw that completes sets `changed`, whatever the framebuffer held (R264). -/
theorem exec_draw_sets_changed {i : Instr} (hi : isDraw i = true) (s : State) :
    NextSatisfies (fun t => t.changed = true) (exec i s) := by
  cases i with
  | cls => exact nextSatisfies_next rfl
  | drw x y n =>
    exact nextSatisfies_of_eq (execDrw_eq x y n s) (nextSatisfies_ite (nextSatisfies_next rfl) (nextSatisfies_fault _))
  | _ => cases hi

/-- The state beside a report is the one that the tick began from with the fault recorded: nothing of what the instruction
would have written reaches it (R133). -/
theorem eq_afterFault_of_tick_report {s u : State} {f : Fault} (h : tick s = .report f u) : u = s.afterFault f := by
  rw [tick] at h
  split at h
  · cases h
  · split at h
    · cases h
    · cases h
      rfl
    · cases h

@[simp] theorem afterFault_fb (s : State) (f : Fault) : (s.afterFault f).fb = s.fb := rfl

/-- `changed` after a faulting tick is what it was or clear, whichever way the free value of log 20 goes: never newly
set (R133). -/
theorem changed_of_changed_afterFault {s : State} {f : Fault} (h : (s.afterFault f).changed = true) :
    s.changed = true := by
  change (if Config.faultKeepsChanged s.ticks then false else s.changed) = true at h
  split at h
  · cases h
  · exact h

/-- Settles O22: the instructions by cases on whether they draw, and the faulting tick by what it leaves of the state. -/
theorem onlyClearAndDrawTouchFramebuffer : Obligations.OnlyClearAndDrawTouchFramebuffer := by
  constructor
  · intro i s t h
    exact ⟨fun hi => exec_keeps_display hi s t h, fun hi => exec_draw_sets_changed hi s t h⟩
  · intro s u f h
    rw [eq_afterFault_of_tick_report h]
    exact ⟨afterFault_fb s f, changed_of_changed_afterFault⟩

end Sys2Proof.Machine
end

section
/-! The encoder and the decoder are inverse to each other (spec/30_encoding.md R91, R94, R101). -/

namespace Sys2Proof

/-- Row 3 takes what rows 1 and 2 leave (R95). -/
theorem decodeOp0_sys {w : Word} (hcls : w ≠ 0x00E0) (hret : w ≠ 0x00EE) : decodeOp0 w = .sys (nnnField w) := by
  rw [decodeOp0, if_neg hcls, if_neg hret]

/-- The words of row 3: 0nnn but for the words of rows 1 and 2 (R95). -/
theorem decode_0nnn {nnn : Addr12} (h : sysOperandAllowed nnn = true) : decode (0x0#4 ++ nnn) = .ok (.sys nnn) := by
  have hne : nnn ≠ 0x0E0 ∧ nnn ≠ 0x0EE := of_decide_eq_true h
  have hfield : nnnField (0x0#4 ++ nnn) = nnn := nnnField_op12 0x0#4 nnn
  have hcls : (0x0#4 ++ nnn : Word) ≠ 0x00E0 := fun e => hne.1 (hfield.symm.trans (congrArg nnnField e))
  have hret : (0x0#4 ++ nnn : Word) ≠ 0x00EE := fun e => hne.2 (hfield.symm.trans (congrArg nnnField e))
  have hop0 : decode (0x0#4 ++ nnn) = .ok (decodeOp0 (0x0#4 ++ nnn)) := by simp [decode]
  rw [hop0, decodeOp0_sys hcls hret, hfield]

/-- Every well-formed instruction is read back from its own word. -/
theorem decode_encode {i : Instr} (h : i.wf = true) : decode (encode i) = .ok i := by
  cases i with
  | cls => rfl
  | ret => rfl
  | sys nnn => exact decode_0nnn h
  | _ => simp [encode, decode, decodeOp8, decodeOpE, decodeOpF]

/-- Settles O1: the fields of an instruction's word are its operands. -/
theorem decodeOfEncode : Obligations.DecodeOfEncode := fun _ h => decode_encode h

section
variable {w : Word}

/-! A word whose opcode nibble is known is its other fields behind that nibble; likewise where the low nibble or the low byte
is known too. -/

theorem op12_of_opField {o : Nibble} (h : (opField w).toNat = o.toNat) : (o ++ nnnField w : BitVec (4 + 12)) = w :=
  BitVec.eq_of_toNat_eq h ▸ join_op12 w

theorem op48_of_opField {o : Nibble} (h : (opField w).toNat = o.toNat) :
    (o ++ regBits (xField w) ++ nnField w : BitVec (4 + 4 + 8)) = w :=
  BitVec.eq_of_toNat_eq h ▸ join_op48 w

theorem op4x8_of_fields {o : Nibble} {nn : Byte} (h : (opField w).toNat = o.toNat) (hn : (nnField w).toNat = nn.toNat) :
    (o ++ regBits (xField w) ++ nn : BitVec (4 + 4 + 8)) = w :=
  BitVec.eq_of_toNat_eq hn ▸ op48_of_opField h

theorem op444_of_opField {o : Nibble} (h : (opField w).toNat = o.toNat) :
    (o ++ regBits (xField w) ++ regBits (yField w) ++ nField w : BitVec (4 + 4 + 4 + 4)) = w :=
  BitVec.eq_of_toNat_eq h ▸ join_op444 w

theorem op4xy4_of_fields {o n : Nibble} (h : (opField w).toNat = o.toNat) (hn : (nField w).toNat = n.toNat) :
    (o ++ regBits (xField w) ++ regBits (yField w) ++ n : BitVec (4 + 4 + 4 + 4)) = w :=
  BitVec.eq_of_toNat_eq hn ▸ op444_of_opField h

/-- `w` is the word of the well-formed instruction `i`. -/
def Encodes (w : Word) (i : Instr) : Prop := encode i = w ∧ i.wf = true

theorem encodes_decodeOp0 (h : (opField w).toNat = 0x0) : Encodes w (decodeOp0 w) := by
  by_cases hcls : w = 0x00E0
  · subst hcls; exact ⟨rfl, rfl⟩
  by_cases hret : w = 0x00EE
  · subst hret; exact ⟨rfl, rfl⟩
  have hword : (0x0#4 ++ nnnField w : BitVec (4 + 12)) = w := op12_of_opField h
  rw [decodeOp0_sys hcls hret]
  refine ⟨hword, ?_⟩
  have h0E0 : nnnField w ≠ 0x0E0 := fun e => hcls (hword.symm.trans (by rw [e]; rfl))
  have h0EE : nnnField w ≠ 0x0EE := fun e => hret (hword.symm.trans (by rw [e]; rfl))
  exact decide_eq_true ⟨h0E0, h0EE⟩

theorem encodes_of_decodeOp8 {i : Instr} (h : (opField w).toNat = 0x8) (hi : decodeOp8 w = .ok i) : Encodes w i := by
  unfold decodeOp8 at hi
  split at hi
  case h_10 => cases hi
  all_goals cases hi; exact ⟨op4xy4_of_fields h ‹_›, rfl⟩

theorem encodes_of_decodeOpE {i : Instr} (h : (opField w).toNat = 0xE) (hi : decodeOpE w = .ok i) : Encodes w i := by
  unfold decodeOpE at hi
  split at hi
  case h_3 => cases hi
  all_goals cases hi; exact ⟨op4x8_of_fields h ‹_›, rfl⟩

theorem encodes_of_decodeOpF {i : Instr} (h : (opField w).toNat = 0xF) (hi : decodeOpF w = .ok i) : Encodes w i := by
  unfold decodeOpF at hi
  split at hi
  case h_10 => cases hi
  all_goals cases hi; exact ⟨op4x8_of_fields h ‹_›, rfl⟩

end

/-- A word that decodes is the word of its instruction, by the branches of the decoder. -/
theorem encodes_of_decode {w : Word} {i : Instr} (hi : decode w = .ok i) : Encodes w i := by
  unfold decode at hi
  split at hi
  -- opcode 0, and the opcodes with a decoder of their own
  case h_1 h => cases hi; exact encodes_decodeOp0 h
  case h_9 h => exact encodes_of_decodeOp8 h hi
  case h_15 h => exact encodes_of_decodeOpE h hi
  case h_16 h => exact encodes_of_decodeOpF h hi
  -- opcodes 5 and 9, whose low nibble is tested
  case h_6 h | h_10 h =>
    split at hi
    · next hn => cases hi; exact ⟨op4xy4_of_fields h (congrArg BitVec.toNat hn), rfl⟩
    · cases hi
  -- opcodes 1, 2, A and B, then D, then no opcode
  case h_2 h | h_3 h | h_11 h | h_12 h => cases hi; exact ⟨op12_of_opField h, rfl⟩
  case h_14 h => cases hi; exact ⟨op444_of_opField h, rfl⟩
  case h_17 => cases hi
  -- opcodes 3, 4, 6, 7 and C
  all_goals cases hi; exact ⟨op48_of_opField ‹_›, rfl⟩

/-- Settles O5: each sample is the word of its instruction, but for the last, whose low nibble is no row's. -/
theorem sampleWordsDecode : Obligations.SampleWordsDecode :=
  ⟨decode_encode (i := .cls) rfl, decode_encode (i := .ret) rfl, decode_encode (i := .sys 0x0EF) rfl,
    decode_encode (i := .call 0xABC) rfl, decode_encode (i := .jpV0 0x123) rfl, decode_encode (i := .seReg 0xA 0xB) rfl,
    decode_encode (i := .shr 0xA 0xB) rfl, decode_encode (i := .addImm 3 0xFE) rfl, decode_encode (i := .ldVxMem 2) rfl,
    decode_encode (i := .ldVxDt 3) rfl, decode_encode (i := .drw 1 2 0xF) rfl, decode_encode (i := .sknp 9) rfl,
    decode_5xyn 0 0 1⟩

/-- Settles O2: by the decoder's branches, each of which keeps every field of the word. -/
theorem encodeOfDecode : Obligations.EncodeOfDecode := fun _ _ h => encodes_of_decode h

end Sys2Proof
end

section
/-! The decoder against the opcode map (spec/30_encoding.md R94 to R96): a row is read as the fields that its pattern
fixes. -/

namespace Sys2Proof

/-- A row whose pattern gives the opcode nibble. -/
def rowOp (number : Nat) (o : Nibble) : OpcodeRow := ⟨number, 0xF000, o ++ 0x000#12⟩

/-- A row whose pattern gives the opcode nibble and the low nibble. -/
def rowOpN (number : Nat) (o n : Nibble) : OpcodeRow := ⟨number, 0xF00F, o ++ 0x0#4 ++ 0x0#4 ++ n⟩

/-- A row whose pattern gives the opcode nibble and the low byte. -/
def rowOpNn (number : Nat) (o : Nibble) (nn : Byte) : OpcodeRow := ⟨number, 0xF0FF, o ++ 0x0#4 ++ nn⟩

/-- The opcode map, row by row as the fields that the pattern fixes. -/
theorem opcodeMap_eq_fields : opcodeMap =
    [⟨1, 0xFFFF, 0x00E0⟩, ⟨2, 0xFFFF, 0x00EE⟩, rowOp 3 0x0, rowOp 4 0x1, rowOp 5 0x2, rowOp 6 0x3, rowOp 7 0x4,
      rowOpN 8 0x5 0x0, rowOp 9 0x6, rowOp 10 0x7, rowOpN 11 0x8 0x0, rowOpN 12 0x8 0x1, rowOpN 13 0x8 0x2,
      rowOpN 14 0x8 0x3, rowOpN 15 0x8 0x4, rowOpN 16 0x8 0x5, rowOpN 17 0x8 0x6, rowOpN 18 0x8 0x7, rowOpN 19 0x8 0xE,
      rowOpN 20 0x9 0x0, rowOp 21 0xA, rowOp 22 0xB, rowOp 23 0xC, rowOp 24 0xD, rowOpNn 25 0xE 0x9E, rowOpNn 26 0xE 0xA1,
      rowOpNn 27 0xF 0x07, rowOpNn 28 0xF 0x0A, rowOpNn 29 0xF 0x15, rowOpNn 30 0xF 0x18, rowOpNn 31 0xF 0x1E,
      rowOpNn 32 0xF 0x29, rowOpNn 33 0xF 0x33, rowOpNn 34 0xF 0x55, rowOpNn 35 0xF 0x65] := rfl

/-- A concatenation is determined by its parts. -/
theorem append_eq_append_iff {v u : Nat} (a c : BitVec v) (b d : BitVec u) : a ++ b = c ++ d ↔ a = c ∧ b = d := by
  constructor
  · intro h
    exact ⟨by rw [← extract_high a b, h, extract_high], by rw [← extract_low a b, h, extract_low]⟩
  · rintro ⟨rfl, rfl⟩
    rfl

/-- Around the same middle part, a concatenation is determined by its ends. -/
theorem append_append_eq_iff {u v t : Nat} (a c : BitVec u) (m : BitVec v) (b d : BitVec t) :
    a ++ m ++ b = c ++ m ++ d ↔ a = c ∧ b = d := by
  rw [append_eq_append_iff, append_eq_append_iff, and_iff_left rfl]

theorem matchesWord_whole (number : Nat) (p w : Word) : (OpcodeRow.mk number 0xFFFF p).matchesWord w = decide (w = p) := by
  have hand : w &&& 0xFFFF = w := BitVec.and_allOnes
  rw [OpcodeRow.matchesWord, hand, beq_eq_decide]

theorem matchesWord_rowOp (number : Nat) (o : Nibble) (w : Word) :
    (rowOp number o).matchesWord w = decide (opField w = o) := by
  have hand : w &&& 0xF000 = opField w ++ 0x000#12 := by
    conv_lhs => rw [← join_op12 w]
    exact Laws.Encoding.op12 _ _
  rw [OpcodeRow.matchesWord, rowOp, hand, beq_eq_decide]
  exact decide_eq_decide.mpr ((append_eq_append_iff ..).trans (and_iff_left rfl))

theorem matchesWord_rowOpN (number : Nat) (o n : Nibble) (w : Word) :
    (rowOpN number o n).matchesWord w = decide (opField w = o ∧ nField w = n) := by
  have hand : w &&& 0xF00F = opField w ++ 0x0#4 ++ 0x0#4 ++ nField w := by
    conv_lhs => rw [← join_op444 w]
    exact Laws.Encoding.op4xy4 (opField w) (regBits (xField w)) (regBits (yField w)) (nField w)
  rw [OpcodeRow.matchesWord, rowOpN, hand, beq_eq_decide]
  exact decide_eq_decide.mpr ((append_eq_append_iff ..).trans
    (and_congr_left' ((append_append_eq_iff ..).trans (and_iff_left rfl))))

theorem matchesWord_rowOpNn (number : Nat) (o : Nibble) (nn : Byte) (w : Word) :
    (rowOpNn number o nn).matchesWord w = decide (opField w = o ∧ nnField w = nn) := by
  have hand : w &&& 0xF0FF = opField w ++ 0x0#4 ++ nnField w := by
    conv_lhs => rw [← join_op48 w]
    exact Laws.Encoding.op4x8 _ _ _
  rw [OpcodeRow.matchesWord, rowOpNn, hand, beq_eq_decide]
  exact decide_eq_decide.mpr (append_append_eq_iff ..)

open Laws.Encoding in
/-- Every instruction's word matches the row of its number (the family `Encoding` of Laws/PerInstr.lean as one statement). -/
theorem encode_matches_own_row : ∀ i : Instr, Statement i
  | .cls => cls
  | .ret => ret
  | .sys nnn => sys nnn
  | .jp nnn => jp nnn
  | .call nnn => call nnn
  | .seImm x nn => seImm x nn
  | .sneImm x nn => sneImm x nn
  | .seReg x y => seReg x y
  | .ldImm x nn => ldImm x nn
  | .addImm x nn => addImm x nn
  | .movReg x y => movReg x y
  | .orReg x y => orReg x y
  | .andReg x y => andReg x y
  | .xorReg x y => xorReg x y
  | .addReg x y => addReg x y
  | .subReg x y => subReg x y
  | .shr x y => shr x y
  | .subn x y => subn x y
  | .shl x y => shl x y
  | .sneReg x y => sneReg x y
  | .ldI nnn => ldI nnn
  | .jpV0 nnn => jpV0 nnn
  | .rnd x nn => rnd x nn
  | .drw x y n => drw x y n
  | .skp x => skp x
  | .sknp x => sknp x
  | .ldVxDt x => ldVxDt x
  | .ldVxKey x => ldVxKey x
  | .ldDtVx x => ldDtVx x
  | .ldStVx x => ldStVx x
  | .addIVx x => addIVx x
  | .ldFontVx x => ldFontVx x
  | .ldBcdVx x => ldBcdVx x
  | .ldMemVx x => ldMemVx x
  | .ldVxMem x => ldVxMem x

/-- A word decodes by the row that it matches; a match of row 3 counts only outside rows 1 and 2 (R95). -/
theorem decode_of_row {w : Word} : ∀ row ∈ opcodeMap, row.matchesWord w = true →
    (row.number = 3 → w ≠ 0x00E0 ∧ w ≠ 0x00EE) → ∃ i, decode w = .ok i ∧ i.rowNumber = row.number := by
  rw [opcodeMap_eq_fields]
  simp only [List.forall_mem_cons, matchesWord_whole, matchesWord_rowOp, matchesWord_rowOpN, matchesWord_rowOpNn,
    decide_eq_true_eq, List.not_mem_nil, false_imp_iff, implies_true, and_true]
  and_intros
  -- rows 1 to 3
  · rintro rfl _; exact ⟨.cls, rfl, rfl⟩
  · rintro rfl _; exact ⟨.ret, rfl, rfl⟩
  · intro h hsys
    obtain ⟨hcls, hret⟩ := hsys rfl
    exact ⟨.sys (nnnField w), by simp [decode, h, decodeOp0_sys hcls hret], rfl⟩
  -- the other rows, whose fields choose the branch of the decoder
  all_goals
    intro h _
    simp [decode, decodeOp8, decodeOpE, decodeOpF, h, Instr.rowNumber, rowOp, rowOpN, rowOpNn]

/-- Settles O3: a word that matches a row decodes by it, and a word that decodes matches the row of its instruction. -/
theorem decodeFollowsOpcodeMap : Obligations.DecodeFollowsOpcodeMap := by
  intro w
  cases hrow : firstRow w with
  | some row =>
    have hmatch : row.matchesWord w = true := List.find?_some (p := fun r : OpcodeRow => r.matchesWord w) hrow
    refine decode_of_row row (List.mem_of_find?_eq_some hrow) hmatch fun h3 => ⟨?_, ?_⟩
    · rintro rfl
      cases hrow.symm.trans (show firstRow 0x00E0 = some ⟨1, 0xFFFF, 0x00E0⟩ by decide)
      cases h3
    · rintro rfl
      cases hrow.symm.trans (show firstRow 0x00EE = some ⟨2, 0xFFFF, 0x00EE⟩ by decide)
      cases h3
  | none =>
    have hnone : ∀ row ∈ opcodeMap, ¬ row.matchesWord w = true := List.find?_eq_none.mp hrow
    cases hdec : decode w with
    | ok i =>
      obtain ⟨hword, -⟩ := encodes_of_decode hdec
      obtain ⟨row, hmem, -, hmatch⟩ := encode_matches_own_row i
      exact absurd (hword ▸ hmatch) (hnone row hmem)
    | error e => rw [decode_error hdec]

/-! ## The illegal words (R96) -/

section
variable {w : Word}

/-- The 16 low nibbles one by one. -/
theorem decodeOp8_eq_error_iff : decodeOp8 w = .error (.unsupportedOpcode w) ↔
    nField w ∈ [0x8#4, 0x9#4, 0xA#4, 0xB#4, 0xC#4, 0xD#4, 0xF#4] := by
  unfold decodeOp8
  generalize nField w = n
  obtain ⟨n, hn⟩ := n
  interval_cases n <;> simp

theorem decodeOpE_eq_error_iff : decodeOpE w = .error (.unsupportedOpcode w) ↔ nnField w ∉ [0x9E#8, 0xA1#8] := by
  unfold decodeOpE
  split <;> simp_all [← BitVec.toNat_inj]

theorem decodeOpF_eq_error_iff : decodeOpF w = .error (.unsupportedOpcode w) ↔
    nnField w ∉ [0x07#8, 0x0A#8, 0x15#8, 0x18#8, 0x1E#8, 0x29#8, 0x33#8, 0x55#8, 0x65#8] := by
  unfold decodeOpF
  split <;> simp_all [← BitVec.toNat_inj]

end

/-- Settles O4: the opcode nibble's 16 values one by one; each of 8, E and F leaves it to its own decoder. -/
theorem illegalWordsAreExactly : Obligations.IllegalWordsAreExactly := by
  intro w
  generalize hop : opField w = o
  obtain ⟨o, ho⟩ := o
  interval_cases o <;> simp [decode, hop, decodeOp8_eq_error_iff, decodeOpE_eq_error_iff, decodeOpF_eq_error_iff]

end Sys2Proof
end

section
/-! What an instruction does where it raises no fault, said once, and that it raises exactly the faults of the table of R288
(spec/60_exceptions.md). -/

namespace Sys2Proof.Machine

/-- The next state of an answer, or the state given where the answer has none. -/
def nextStateOr (s : State) : Answer → State
  | .next t => t
  | _ => s

/-- The state that an instruction leaves where it raises no fault: written out for the eight instructions that can fault, and
what `exec` answers for the others. -/
def afterInstr (i : Instr) (s : State) : State :=
  match i with
  | .ret => { s with pc := s.stack.toList.getD (s.sp.val - 1) 0, sp := ⟨s.sp.val - 1, by omega⟩ }
  | .call nnn =>
    { s with
      pc := zextAddr nnn
      stack := s.stack.setIfInBounds s.sp.val (s.pc + 2)
      sp := ⟨min (s.sp.val + 1) Config.stackDepth, by omega⟩ }
  | .skp x => s.skipIf (s.keys.toList.getD (s.v x).toNat false)
  | .sknp x => s.skipIf (!s.keys.toList.getD (s.v x).toNat false)
  | .drw x y n =>
    let cv := s.drawSprite x y (s.spriteRows n)
    ((s.setFb cv.fb).setV regF (flagByte cv.coll)).advance
  | .ldBcdVx x => { s with mem := Memory.writeList s.mem s.I.toNat (bcdDigits (s.v x)), pc := s.pc + 2 }
  | .ldMemVx x => { s with mem := Memory.writeList s.mem s.I.toNat (s.regBlock x), pc := s.pc + 2 }
  | .ldVxMem x =>
    { s with
      V := (s.loadRegs 0 ((List.range' s.I.toNat (x.val + 1)).map (fun a => Memory.read s.mem a))).V
      pc := s.pc + 2 }
  | i => nextStateOr s (exec i s)

/-- The answer of an instruction that raises `f`, where it raises a fault, and leaves `t`, where it raises none. -/
def answerOf (f : Option Fault) (t : State) : Answer := f.elim (.next t) .fault

/-! ## The faults of loads and stores -/

section
variable (s : State) (word : Word) (addr : Nat) {n : Nat}

/-- An access faults where it has a byte and does not end inside memory (R64). -/
theorem rangeFault_eq (n : Nat) :
    s.rangeFault word addr n = if addr + n ≤ Config.memSize ∨ n = 0 then none
      else some (.addressOutOfRange (some word) s.pc (max addr Config.memSize)) := by
  rw [State.rangeFault]
  by_cases h : addr + n ≤ Config.memSize ∨ n = 0
  · rw [if_pos h, if_neg (by omega)]
  · rw [if_neg h, if_pos (by omega)]

/-- A store faults where it does not end inside memory, and then where it starts in the font region (R65, R289). -/
theorem storeFault_eq (hn : 0 < n) :
    s.storeFault word addr n = if addr + n ≤ Config.memSize then
        if addr < fontEnd then some (.protectedWrite word s.pc addr) else none
      else some (.addressOutOfRange (some word) s.pc (max addr Config.memSize)) := by
  rw [State.storeFault]
  by_cases h : addr + n ≤ Config.memSize
  · rw [if_pos h, if_neg (by omega)]
    exact if_congr (and_iff_right hn) rfl rfl
  · rw [if_neg h, if_pos (by omega)]

theorem rangeFault_eq_none_iff : s.rangeFault word addr n = none ↔ addr + n ≤ Config.memSize ∨ n = 0 := by
  rw [rangeFault_eq]
  split
  · next hin => exact iff_of_true rfl hin
  · next hout => exact iff_of_false (Option.some_ne_none _) hout

theorem storeFault_eq_none_iff (hn : 0 < n) :
    s.storeFault word addr n = none ↔ fontEnd ≤ addr ∧ addr + n ≤ Config.memSize := by
  rw [storeFault_eq s word addr hn]
  split
  · next hin =>
    split
    · next hfont => exact iff_of_false (Option.some_ne_none _) fun h => absurd hfont (not_lt.mpr h.1)
    · next hfont => exact iff_of_true rfl ⟨not_lt.mp hfont, hin⟩
  · next hout => exact iff_of_false (Option.some_ne_none _) fun h => hout h.2

end

/-! ## The shapes of a meaning that can fault (Laws/Exec.lean), as answers -/

section
variable {s t : State} {word : Word} {addr n : Nat}

/-- One guard before one next state: RET, CALL and the key skips. -/
theorem guard_eq_answerOf {p c : Prop} [Decidable p] [Decidable c] {u : p → State} {f : Fault} (hc : ¬ p ↔ c)
    (hu : ∀ hp, u hp = t) :
    (if hp : p then .next (u hp) else .fault f : Answer) = answerOf (if c then some f else none) t := by
  by_cases hp : p
  · rw [dif_pos hp, if_neg (fun h => hc.mpr h hp), hu hp]
    rfl
  · rw [dif_neg hp, if_pos (hc.mp hp)]
    rfl

/-- The loads: a range check before one next state. -/
theorem load_eq_answerOf :
    (if addr + n ≤ Config.memSize ∨ n = 0 then .next t
      else .fault (.addressOutOfRange (some word) s.pc (max addr Config.memSize)) : Answer) =
      answerOf (s.rangeFault word addr n) t := by
  rw [rangeFault_eq]
  split <;> rfl

/-- The stores: a range check, and then the check of the font region. -/
theorem store_eq_answerOf (hn : 0 < n) :
    (if addr + n ≤ Config.memSize then
        if addr < fontEnd then .fault (.protectedWrite word s.pc addr) else .next t
      else .fault (.addressOutOfRange (some word) s.pc (max addr Config.memSize)) : Answer) =
      answerOf (s.storeFault word addr n) t := by
  rw [storeFault_eq s word addr hn]
  split
  · split <;> rfl
  · rfl

end

theorem getD_toList_of_lt {α : Type} {n : Nat} (v : Vector α n) (d : α) {k : Nat} (h : k < n) :
    v.toList.getD k d = v[k] := by
  simp [List.getD_eq_getElem?_getD, h]

theorem setIfInBounds_of_lt {α : Type} {n : Nat} (v : Vector α n) (a : α) {k : Nat} (h : k < n) :
    v.setIfInBounds k a = v.set k a h := by
  ext j hj
  rw [Vector.getElem_setIfInBounds, Vector.getElem_set]

/-- The sprite bytes as the load of DRW lists them. -/
theorem spriteRows_eq_map_range' (s : State) (n : Nibble) :
    (List.range' s.I.toNat n.toNat).map (fun a => Memory.read s.mem a) = s.spriteRows n := by
  rw [State.spriteRows, List.range'_eq_map_range, List.map_map]
  rfl

/-! ## Every instruction -/

/-- An instruction raises the fault of the table of R288, and where that lists none it completes. -/
theorem exec_eq (i : Instr) (s : State) : exec i s = answerOf (faultOf i s) (afterInstr i s) := by
  cases i with
  | ret =>
    refine (execRet_eq s).trans (guard_eq_answerOf (by omega) fun h => ?_)
    rw [afterInstr, getD_toList_of_lt]
  | call nnn =>
    have hle : s.sp.val ≤ 16 := Nat.le_of_lt_succ s.sp.isLt
    have hfull : ¬ s.sp.val < 16 ↔ s.sp.val = 16 := by omega
    refine (execCall_eq nnn s).trans (guard_eq_answerOf hfull fun h => ?_)
    have hmin : min (s.sp.val + 1) Config.stackDepth = s.sp.val + 1 := Nat.min_eq_left h
    simp only [afterInstr, hmin, setIfInBounds_of_lt _ _ h]
  | skp x =>
    refine (execSkp_eq x s).trans (guard_eq_answerOf not_lt fun h => ?_)
    rw [afterInstr, getD_toList_of_lt]
  | sknp x =>
    refine (execSknp_eq x s).trans (guard_eq_answerOf not_lt fun h => ?_)
    rw [afterInstr, getD_toList_of_lt]
  | drw x y n =>
    refine (execDrw_eq x y n s).trans ?_
    rw [spriteRows_eq_map_range']
    exact load_eq_answerOf
  | ldVxMem x =>
    have hin : s.I.toNat + (x.val + 1) ≤ Config.memSize ↔ s.I.toNat + (x.val + 1) ≤ Config.memSize ∨ x.val + 1 = 0 :=
      (or_iff_left (Nat.succ_ne_zero _)).symm
    refine (execLdVxMem_eq x s).trans ((if_congr hin ?_ rfl).trans load_eq_answerOf)
    rw [loadRegs_frame]
    rfl
  | ldBcdVx x => exact (execLdBcdVx_eq x s).trans (store_eq_answerOf (Nat.succ_pos _))
  | ldMemVx x => exact (execLdMemVx_eq x s).trans (store_eq_answerOf (Nat.succ_pos _))
  | _ => rfl

theorem exec_eq_fault_iff {i : Instr} {s : State} {f : Fault} : exec i s = .fault f ↔ faultOf i s = some f := by
  rw [exec_eq]
  cases faultOf i s <;> simp [answerOf]

/-- What an instruction that answers a next state did: it raised no fault, and left what it leaves. -/
theorem exec_eq_next_iff {i : Instr} {s t : State} : exec i s = .next t ↔ faultOf i s = none ∧ t = afterInstr i s := by
  rw [exec_eq]
  cases faultOf i s <;> simp [answerOf, eq_comm]

theorem exec_of_no_fault {i : Instr} {s : State} (h : faultOf i s = none) : exec i s = .next (afterInstr i s) :=
  exec_eq_next_iff.mpr ⟨h, rfl⟩

theorem exec_ne_refused (i : Instr) (s : State) (r : Refusal) : exec i s ≠ .refused r := by
  rw [exec_eq]
  cases faultOf i s <;> simp [answerOf]

/-- Settles O18: every meaning is the answer of its line in the table. -/
theorem instructionFaultsExactlyAsListed : Obligations.InstructionFaultsExactlyAsListed := by
  intro i s
  exact ⟨fun _ => exec_eq_fault_iff, fun h => ⟨afterInstr i s, exec_of_no_fault h⟩, exec_ne_refused i s⟩

end Sys2Proof.Machine
end

section
/-! What each instruction changes and what it leaves, item by item of the state. -/

namespace Sys2Proof.Machine

section
variable (i : Instr) (s : State)

/-- Only Annn, Fx1E and Fx29 write I (R24). -/
theorem afterInstr_I (h : isIndexWriter i = false) : (afterInstr i s).I = s.I := by
  cases i with
  | ldI | addIVx | ldFontVx => cases h
  | _ => rfl

/-- Only Fx15 writes DT (R33). -/
theorem afterInstr_DT (h : ∀ x, i ≠ .ldDtVx x) : (afterInstr i s).DT = s.DT := by
  cases i with
  | ldDtVx x => exact absurd rfl (h x)
  | _ => rfl

/-- Only Fx18 writes ST (R34). -/
theorem afterInstr_ST (h : ∀ x, i ≠ .ldStVx x) : (afterInstr i s).ST = s.ST := by
  cases i with
  | ldStVx x => exact absurd rfl (h x)
  | _ => rfl

/-- Only Fx0A writes the latch (R36). -/
theorem afterInstr_latch (h : ∀ x, i ≠ .ldVxKey x) :
    (afterInstr i s).wait = s.wait ∧ (afterInstr i s).waitReg = s.waitReg := by
  cases i with
  | ldVxKey x => exact absurd rfl (h x)
  | _ => exact ⟨rfl, rfl⟩

@[simp] theorem afterInstr_keys : (afterInstr i s).keys = s.keys := by cases i <;> rfl
@[simp] theorem afterInstr_fault : (afterInstr i s).fault = s.fault := by cases i <;> rfl
@[simp] theorem afterInstr_rnd : (afterInstr i s).rnd = s.rnd := by cases i <;> rfl
@[simp] theorem afterInstr_inputs : (afterInstr i s).inputs = s.inputs := by cases i <;> rfl
@[simp] theorem afterInstr_ticks : (afterInstr i s).ticks = s.ticks := by cases i <;> rfl

/-- Only a call and a return touch the stack and its pointer (R29 to R32). -/
theorem afterInstr_stack (h : isStackUser i = false) : (afterInstr i s).sp = s.sp ∧ (afterInstr i s).stack = s.stack := by
  cases i with
  | ret | call => cases h
  | _ => exact ⟨rfl, rfl⟩

/-- A call pushes the address of the next word, and leaves every other entry (R31, R153). -/
theorem stack_afterInstr_call (nnn : Addr12) (k : Fin 16) :
    (afterInstr (.call nnn) s).stack[k] = if k.val = s.sp.val then s.pc + 2 else s.stack[k] :=
  (Vector.getElem_setIfInBounds k.isLt).trans (if_congr eq_comm rfl rfl)

/-- A stack entry is changed only by a call, and only the one that it pushes. -/
theorem afterInstr_stack_entry {k : Fin 16} (h : (afterInstr i s).stack[k] ≠ s.stack[k]) :
    (∃ nnn, i = .call nnn) ∧ k.val = s.sp.val := by
  cases i with
  | call nnn =>
    refine ⟨⟨nnn, rfl⟩, ?_⟩
    by_contra hk
    exact h ((stack_afterInstr_call s nnn k).trans (if_neg hk))
  | _ => exact absurd rfl h

/-- A byte of memory is changed only where a store writes it (R70). -/
theorem read_afterInstr {a : Nat} (h : ¬ (s.I.toNat ≤ a ∧ a < s.I.toNat + storeWidth i)) :
    Memory.read (afterInstr i s).mem a = Memory.read s.mem a := by
  cases i with
  | ldBcdVx x => exact (read_writeList _ _ _ _).trans (if_neg h)
  | ldMemVx x => exact (read_writeList _ _ _ _).trans (if_neg (by rwa [length_regBlock]))
  | _ => rfl

/-- A skip on the opposite condition. -/
theorem skipIf_not_pc (c : Bool) : (s.skipIf (!c)).pc = if c then s.pc + 2 else s.pc + 4 := by
  cases c <;> rfl

/-- The target of Bnnn is a sum of 16-bit values: it does not wrap (R154). -/
theorem offsetTarget_eq_add (nnn : Addr12) : s.offsetTarget nnn = (s.v 0).setWidth 16 + nnn.setWidth 16 := by
  apply BitVec.eq_of_toNat_eq
  have hv := (s.v 0).isLt
  have hnnn := nnn.isLt
  rw [toNat_offsetTarget, BitVec.toNat_add, BitVec.toNat_setWidth, BitVec.toNat_setWidth]
  omega

/-- The pc follows the table of R27; the cases named are the tests of the skips and the sum of Bnnn. -/
theorem afterInstr_pc : (afterInstr i s).pc = nextPc i s := by
  cases i with
  | seImm x nn => exact if_congr beq_iff_eq rfl rfl
  | sneImm x nn => exact if_congr bne_iff_ne rfl rfl
  | seReg x y => exact if_congr beq_iff_eq rfl rfl
  | sneReg x y => exact if_congr bne_iff_ne rfl rfl
  | sknp x => exact skipIf_not_pc s _
  | jpV0 nnn => exact offsetTarget_eq_add s nnn
  | _ => rfl

/-- A result with a flag: the result in V[x], and the flag in VF last. -/
theorem v_assignFlag (x q : Reg) (b : Byte) (f : Bool) :
    (s.assignFlag x b f).v q = if q = regF then flagByte f else if q = x then b else s.v q :=
  v_setVFlag s x q b f

/-- A general register is changed only as a destination, as VF by a flag, or in the block of Fx65 (R23, R215). -/
theorem afterInstr_v {r : Reg} (h : mayWriteReg i r = false) : (afterInstr i s).v r = s.v r := by
  cases i with
  | ldImm x | addImm x | movReg x | orReg x | andReg x | xorReg x | rnd x | ldVxDt x =>
    have hx : r ≠ x := ne_of_beq_false h
    exact (v_setV s x r _).trans (if_neg hx)
  | addReg x | subReg x | shr x | subn x | shl x =>
    obtain ⟨hx, hf⟩ := Bool.or_eq_false_iff.mp h
    refine (v_setVFlag s x r _ _).trans ?_
    rw [if_neg (ne_of_beq_false hf), if_neg (ne_of_beq_false hx)]
  | drw | addIVx => exact (v_setV _ regF r _).trans (if_neg (ne_of_beq_false h))
  | ldVxMem x =>
    have hx : x.val < r.val := not_le.mp (of_decide_eq_false h)
    refine (v_loadRegs _ s 0 r).trans (if_neg ?_)
    rw [List.length_map, List.length_range']
    omega
  | _ => rfl

end

/-- Settles O20: only the two stores write memory, each from I on. -/
theorem memoryFrame : Obligations.MemoryFrame := by
  intro i s t h a ha
  obtain ⟨-, rfl⟩ := exec_eq_next_iff.mp h
  exact read_afterInstr i s ha

/-- Settles O21: by the registers that each instruction writes. -/
theorem registerFrame : Obligations.RegisterFrame := by
  intro i s t h r hr
  obtain ⟨-, rfl⟩ := exec_eq_next_iff.mp h
  exact afterInstr_v i s hr

/-- Settles O23: a return leaves the entries, and a call writes one. -/
theorem onlyCallAndReturnTouchStack : Obligations.OnlyCallAndReturnTouchStack := by
  intro i s t h
  obtain ⟨-, rfl⟩ := exec_eq_next_iff.mp h
  exact ⟨afterInstr_stack i s, fun _ => afterInstr_stack_entry i s⟩

/-- Settles O24: item by item of the state. -/
theorem writersOfIndexTimersAndLatch : Obligations.WritersOfIndexTimersAndLatch := by
  intro i s t h
  obtain ⟨-, rfl⟩ := exec_eq_next_iff.mp h
  exact ⟨afterInstr_I i s, afterInstr_DT i s, afterInstr_ST i s, afterInstr_latch i s, afterInstr_keys i s,
    afterInstr_fault i s, afterInstr_rnd i s, afterInstr_inputs i s, afterInstr_ticks i s⟩

end Sys2Proof.Machine
end

section
/-! The tick (spec/40_execution_step.md): what a step of a running block, a wait tick and a faulting tick do. -/

namespace Sys2Proof.Machine

/-! ## A wait tick -/

/-- A wait tick writes a register and the latch, or nothing. -/
theorem waitTick_frame (s : State) : s.waitTick = { s with V := s.waitTick.V, wait := s.waitTick.wait } := by
  unfold State.waitTick
  cases firstKey s.keys <;> rfl

/-- A wait tick clears the latch exactly where some key is held (R125, R126). -/
theorem waitTick_wait_eq_false_iff {s : State} (h : s.wait = true) :
    s.waitTick.wait = false ↔ ∃ k : Fin 16, s.keys[k] = true := by
  unfold State.waitTick
  cases hk : firstKey s.keys with
  | none =>
    have hnone := firstKey_eq_none.mp hk
    simp [h, hnone]
  | some k => exact iff_of_true rfl ⟨k, (firstKey_eq_some.mp hk).1⟩

/-- What a completed step of a waiting block leaves: all but V, the latch, and the inputs. -/
theorem eq_of_waiting_step {s t : State} (hwait : s.Waiting) (h : step s = .next t) :
    t = { s.beginTick with V := t.V, wait := t.wait } := by
  cases (step_of_waiting hwait).symm.trans h
  exact waitTick_frame s.beginTick

/-! ## A tick of a running block -/

theorem holdsWord_unique {s : State} {w w' : Word} (h : s.HoldsWord w) (h' : s.HoldsWord w') : w = w' :=
  BitVec.eq_of_toNat_eq (h.2.trans h'.2.symm)

theorem step_of_running {s : State} (h : s.Running) : step s = s.beginTick.executeOne :=
  (step_of_no_fault h.1).trans (tickBody_of_running h)

/-- A running block decodes and dispatches the word at the pc. -/
theorem step_of_holdsWord {s : State} {w : Word} (hrun : s.Running) (hw : s.HoldsWord w) :
    step s = s.atDispatch.dispatchWord w := by
  have hfetch : s.beginTick.countDownTimers.fetch = .ok w := fetch_of_holdsWord (s := s.atDispatch) hw
  simp only [step_of_running hrun, State.executeOne, hfetch, State.atDispatch]

theorem dispatchWord_of_ok {s : State} {w : Word} {i : Instr} (h : decode w = .ok i) : s.dispatchWord w = exec i s := by
  rw [State.dispatchWord, h]

theorem dispatchWord_of_error {s : State} {w : Word} {e : DecodeError} (h : decode w = .error e) :
    s.dispatchWord w = .fault (.unsupportedOpcode w s.pc) := by
  rw [State.dispatchWord, h]

theorem step_of_decode {s : State} {w : Word} {i : Instr} (hrun : s.Running) (hw : s.HoldsWord w) (hi : decode w = .ok i) :
    step s = exec i s.atDispatch :=
  (step_of_holdsWord hrun hw).trans (dispatchWord_of_ok hi)

/-- Where the step of a running block completes, the instruction at its pc raised no fault and left the next state. -/
theorem eq_afterInstr_of_step {s t : State} {w : Word} {i : Instr} (hrun : s.Running) (hw : s.HoldsWord w)
    (hi : decode w = .ok i) (h : step s = .next t) : t = afterInstr i s.atDispatch :=
  (exec_eq_next_iff.mp ((step_of_decode hrun hw hi).symm.trans h)).2

theorem countDown_eq (b : Byte) : countDown b = if b = 0 then 0 else b - 1 := by
  by_cases h : b = 0
  · rw [h]; rfl
  · have hpos : 0 < b.toNat := Nat.pos_of_ne_zero (fun e => h (BitVec.eq_of_toNat_eq e))
    rw [countDown, if_pos hpos, if_neg h]

/-- The fetch past the last word. -/
theorem fetch_of_out_of_range {s : State} (h : 0xFFF ≤ s.pc.toNat) :
    s.fetch = .error (.addressOutOfRange none s.pc (max s.pc.toNat 0x1000)) := by
  by_cases hpc : s.pc.toNat < 0x1000
  · have hlast : s.pc.toNat = 0xFFF := by omega
    simp [State.fetch, State.fetchByte, hlast]
  · rw [State.fetch, State.fetchByte, if_neg hpc, Nat.max_eq_left (by omega)]

/-- A running block whose word does not lie inside memory faults at the fetch, without a word. -/
theorem step_of_out_of_range {s : State} (hrun : s.Running) (h : 0xFFF ≤ s.pc.toNat) :
    step s = .fault (.addressOutOfRange none s.pc (max s.pc.toNat 0x1000)) := by
  have hfetch : s.beginTick.countDownTimers.fetch = .error (.addressOutOfRange none s.pc (max s.pc.toNat 0x1000)) :=
    fetch_of_out_of_range (s := s.atDispatch) h
  simp only [step_of_running hrun, State.executeOne, hfetch]

/-- Settles O6: the tick begins, counts down, and dispatches the word at the pc. -/
theorem stepRunsDecodedInstruction : Obligations.StepRunsDecodedInstruction := by
  intro s w i hrun hw hi
  rw [step_of_decode hrun hw hi, ← countDown_eq, ← countDown_eq]
  rfl

/-- Settles O7: the dispatch of the word at the pc, by the opcode map (O3). -/
theorem fetchedWordIsDecodedByTheMap : Obligations.FetchedWordIsDecodedByTheMap := by
  intro s w hrun hw
  have hmap := decodeFollowsOpcodeMap w
  cases hrow : firstRow w with
  | none =>
    rw [hrow] at hmap
    exact (step_of_holdsWord hrun hw).trans (dispatchWord_of_error hmap)
  | some row =>
    rw [hrow] at hmap
    obtain ⟨i, hi, hn⟩ := hmap
    exact ⟨i, hi, hn, step_of_decode hrun hw hi⟩

/-- Settles O8: the fetch fails before anything is decoded. -/
theorem fetchOutOfRangeFaults : Obligations.FetchOutOfRangeFaults := by
  intro s hrun hpc
  exact step_of_out_of_range hrun hpc

/-- Settles O9: no instruction and no wait tick writes the snapshot that the tick began with. -/
theorem keySnapshotReplacesKeys : Obligations.KeySnapshotReplacesKeys := by
  refine ⟨fun s t h => ?_, fun s w i hrun hw hi => ⟨rfl, step_of_decode hrun hw hi⟩, fun s t hwait h => ?_, ?_⟩
  · obtain ⟨-, w, i, -, -, hex⟩ | ⟨hwait, -⟩ := step_next_cases h
    · obtain ⟨-, rfl⟩ := exec_eq_next_iff.mp hex
      exact afterInstr_keys i _
    · rw [eq_of_waiting_step hwait h]
      rfl
  · cases (step_of_waiting hwait).symm.trans h
    exact waitTick_wait_eq_false_iff hwait.2
  · intro s k rest hin
    rw [State.tickInput, hin]

/-- Settles O11: the tick is `beginTick` followed by the resolution with the key that `firstKey` finds. -/
theorem resolutionWritesLeastKey : Obligations.ResolutionWritesLeastKey := by
  intro s k hwait hheld hleast
  have hfirst : firstKey s.beginTick.keys = some k := firstKey_eq_some.mpr ⟨hheld, hleast⟩
  have hstep : step s = .next (s.beginTick.resolveWait k) := by
    rw [step_of_waiting hwait, State.waitTick, hfirst]
  exact ⟨s.beginTick.resolveWait k, hstep, v_resolveWait s.beginTick k, rfl⟩

/-- Settles O19: an instruction by the table, and a wait tick by what it leaves. -/
theorem pcFollowsTable : Obligations.PcFollowsTable := by
  constructor
  · intro i s t h
    obtain ⟨-, rfl⟩ := exec_eq_next_iff.mp h
    exact afterInstr_pc i s
  · intro s t hwait h
    rw [eq_of_waiting_step hwait h]
    rfl

/-- Settles O13: the tick counts down before the instruction, which keeps a timer that it does not write. -/
theorem timersCountExecuteTicks : Obligations.TimersCountExecuteTicks := by
  constructor
  · intro s t w i hrun hw hi h
    rw [eq_afterInstr_of_step hrun hw hi h]
    constructor
    · intro hne
      rw [afterInstr_DT i _ hne]
      exact toNat_countDown s.DT
    · intro hne
      rw [afterInstr_ST i _ hne]
      exact toNat_countDown s.ST
  · intro s t hwait h
    rw [eq_of_waiting_step hwait h]
    exact ⟨rfl, rfl⟩

/-- Settles O14: `changed` is clear at the dispatch, and only a draw sets it. -/
theorem changedReportsThisTick : Obligations.ChangedReportsThisTick := by
  intro s t h
  obtain ⟨hrun, w, i, hw, hi, hex⟩ | ⟨hwait, -⟩ := step_next_cases h
  · cases hdraw : isDraw i with
    | true =>
      exact iff_of_true (exec_draw_sets_changed hdraw _ t hex) ⟨hrun, w, i, hw, hi, hdraw⟩
    | false =>
      have hchanged : t.changed = false := (exec_keeps_display hdraw _ t hex).2
      refine iff_of_false (by simp [hchanged]) ?_
      rintro ⟨-, w', i', hw', hi', hdraw'⟩
      rw [holdsWord_unique hw' hw, hi] at hi'
      cases hi'
      cases hdraw.symm.trans hdraw'
  · rw [eq_of_waiting_step hwait h]
    refine iff_of_false Bool.false_ne_true ?_
    rintro ⟨hrun, -⟩
    cases hwait.2.symm.trans hrun.2

/-- A tick gives its snapshot from the state at its end. -/
theorem snapshot_of_tick {s t : State} {out : Snapshot} (h : tick s = .snapshot out t) : out = t.snapshot := by
  rw [tick] at h
  split at h
  · cases h
  · split at h <;> cases h
    rfl

theorem step_eq_next_iff {s t : State} : step s = .next t ↔ tick s = .snapshot t.snapshot t := by
  constructor
  · intro h
    cases htick : tick s with
    | snapshot out u =>
      rw [step, htick] at h
      cases h
      rw [snapshot_of_tick htick]
    | _ => rw [step, htick] at h; cases h
  · intro h
    rw [step, h]
    rfl

/-- Settles O15: a step completes exactly where its tick gives the snapshot of the state at its end. -/
theorem snapshotOfTick : Obligations.SnapshotOfTick := by
  refine ⟨fun s t => ⟨fun h => ⟨_, step_eq_next_iff.mp h⟩, ?_⟩, ?_, ?_⟩
  · rintro ⟨out, h⟩
    rw [step_eq_next_iff, h, snapshot_of_tick h]
  · intro s t out h
    rw [snapshot_of_tick h]
    exact ⟨rfl, rfl, decide_eq_true_iff⟩
  · intro s hwait
    have hstep := step_of_waiting hwait
    have hframe := waitTick_frame s.beginTick
    have hST : s.beginTick.waitTick.ST = s.ST := by rw [hframe]; rfl
    exact ⟨_, _, step_eq_next_iff.mp hstep, congrArg State.changed hframe, hST⟩

/-! ## A faulting tick -/

theorem step_of_tick_report {s u : State} {f : Fault} (h : tick s = .report f u) : step s = .fault f := by
  rw [step, h]
  rfl

/-- Settles O16: the recorded fault is the tick's first test. -/
theorem haltedBlockTakesNoTick : Obligations.HaltedBlockTakesNoTick := by
  intro s hfault
  have htick : tick s = .noTick := if_pos (Option.isSome_iff_ne_none.mpr hfault)
  exact ⟨htick, by rw [step, htick]; rfl⟩

/-- How a tick that reports came about: the fetch failed, the word at the pc is no instruction, or the instruction there
raised its fault. -/
inductive TickFaults (s : State) : Fault → Prop where
  | fetch (h : 0xFFF ≤ s.pc.toNat) : TickFaults s (.addressOutOfRange none s.pc (max s.pc.toNat 0x1000))
  | illegal {w : Word} {e : DecodeError} (hw : s.HoldsWord w) (hi : decode w = .error e) :
      TickFaults s (.unsupportedOpcode w s.pc)
  | instr {w : Word} {i : Instr} {f : Fault} (hw : s.HoldsWord w) (hi : decode w = .ok i)
      (hf : faultOf i s.atDispatch = some f) : TickFaults s f

/-- Only a running block faults: a halted one takes no tick, and a wait tick completes. -/
theorem running_of_tick_report {s u : State} {f : Fault} (h : tick s = .report f u) : s.Running := by
  cases hfault : s.fault with
  | some r =>
    obtain ⟨hnone, -⟩ := haltedBlockTakesNoTick s (by simp [hfault])
    cases hnone.symm.trans h
  | none =>
    refine ⟨hfault, ?_⟩
    by_contra hwait
    cases (step_of_waiting ⟨hfault, by simpa using hwait⟩).symm.trans (step_of_tick_report h)

theorem tickFaults_of_report {s u : State} {f : Fault} (h : tick s = .report f u) : TickFaults s f := by
  have hrun := running_of_tick_report h
  have hstep := step_of_tick_report h
  by_cases hpc : 0xFFF ≤ s.pc.toNat
  · cases (step_of_out_of_range hrun hpc).symm.trans hstep
    exact .fetch hpc
  · obtain ⟨w, hw⟩ : ∃ w, s.HoldsWord w := ⟨_, holdsWord_iff.mpr ⟨Nat.succ_lt_succ (not_le.mp hpc), rfl⟩⟩
    rw [step_of_holdsWord hrun hw] at hstep
    cases hi : decode w with
    | error e =>
      cases (dispatchWord_of_error hi).symm.trans hstep
      exact .illegal hw hi
    | ok i => exact .instr hw hi (exec_eq_fault_iff.mp ((dispatchWord_of_ok hi).symm.trans hstep))

/-- The report that R280 asks for: the pc, the word where one is given, and an address exactly for the kinds that have
one. -/
def Report.Describes (r : Report) (word : Option Word) (pc : Word) : Prop :=
  r.pc = pc ∧ r.word = word ∧ (r.addr ≠ none ↔ r.kind = .addressOutOfRange ∨ r.kind = .protectedWrite)

/-- The report of an instruction's fault carries its word and the pc. -/
theorem report_of_faultOf {i : Instr} {s : State} {f : Fault} (h : faultOf i s = some f) :
    ∃ r, f.report = some r ∧ r.Describes (some (encode i)) s.pc := by
  cases i with
  | ret | call | skp | sknp =>
    rw [faultOf, Option.ite_none_right_eq_some] at h
    obtain ⟨-, ⟨⟩⟩ := h
    exact ⟨_, rfl, rfl, rfl, by simp⟩
  | drw | ldVxMem =>
    rw [faultOf, State.rangeFault, Option.ite_none_right_eq_some] at h
    obtain ⟨-, ⟨⟩⟩ := h
    exact ⟨_, rfl, rfl, rfl, by simp⟩
  | ldBcdVx | ldMemVx =>
    rw [faultOf, storeFault_eq _ _ _ (Nat.succ_pos _)] at h
    split at h
    · rw [Option.ite_none_right_eq_some] at h
      obtain ⟨-, ⟨⟩⟩ := h
      exact ⟨_, rfl, rfl, rfl, by simp⟩
    · cases h
      exact ⟨_, rfl, rfl, rfl, by simp⟩
  | _ => cases h

/-- Every fault of a tick has a report; its word is missing exactly where the fetch fails, and is else the word at the pc. -/
theorem report_of_tickFaults {s : State} {f : Fault} (h : TickFaults s f) :
    ∃ r word, f.report = some r ∧ r.Describes word s.pc ∧ (word = none ↔ 0xFFF ≤ s.pc.toNat) ∧
      ∀ w, word = some w → s.HoldsWord w := by
  have inRange {w : Word} (hw : s.HoldsWord w) : ¬ 0xFFF ≤ s.pc.toNat :=
    not_le.mpr (Nat.lt_of_succ_lt_succ hw.1)
  cases h with
  | fetch hpc => exact ⟨_, none, rfl, ⟨rfl, rfl, by simp⟩, by simp [hpc], by simp⟩
  | @illegal w e hw hi => exact ⟨_, some w, rfl, ⟨rfl, rfl, by simp⟩, by simp [inRange hw], by rintro _ ⟨⟩; exact hw⟩
  | @instr w i f hw hi hf =>
    obtain ⟨r, hr, hdesc⟩ := report_of_faultOf hf
    obtain ⟨hword, -⟩ := encodes_of_decode hi
    exact ⟨r, _, hr, hdesc, by simp [inRange hw], by rintro _ ⟨⟩; exact hword ▸ hw⟩

/-- Settles O60: by the three ways in which a tick faults. -/
theorem reportOfEachFault : Obligations.ReportOfEachFault := by
  refine ⟨fun _ _ _ _ => ⟨rfl, rfl, rfl, rfl, rfl, rfl, rfl⟩, ⟨rfl, rfl, rfl, rfl, rfl, rfl, rfl⟩, ?_⟩
  intro s u f h
  obtain ⟨r, word, hr, ⟨hpc, rfl, haddr⟩, hnone, hword⟩ := report_of_tickFaults (tickFaults_of_report h)
  rw [eq_afterFault_of_tick_report h]
  exact ⟨r, hr, hr, hpc, hnone, hword, haddr⟩

/-- Settles O12: an instruction by what it does to the latch, a fault by its report, a stall by what it leaves. -/
theorem latchStateMachine : Obligations.LatchStateMachine := by
  refine ⟨fun s t w i hrun hw hi h => ?_, fun s u f _ h => ?_, fun s t hwait hkeys h => ?_⟩
  · rw [eq_afterInstr_of_step hrun hw hi h]
    have hfault : (afterInstr i s.atDispatch).fault = none := (afterInstr_fault i _).trans hrun.1
    constructor
    · rintro x rfl
      exact ⟨⟨hfault, rfl⟩, rfl⟩
    · intro hne
      obtain ⟨hwait, hreg⟩ := afterInstr_latch i s.atDispatch hne
      exact ⟨⟨hfault, hwait.trans hrun.2⟩, hreg⟩
  · obtain ⟨r, -, hr, -⟩ := report_of_tickFaults (tickFaults_of_report h)
    rw [eq_afterFault_of_tick_report h]
    exact ⟨rfl, fun hnone => by cases hr.symm.trans hnone⟩
  · have hstall : s.beginTick.waitTick = s.beginTick := waitTick_of_no_key hkeys
    rw [step_of_waiting hwait, hstall] at h
    cases h
    exact ⟨hwait, rfl⟩

/-- The timers after a faulting tick: both as they were or both counted down, whichever way the free value goes (R133). -/
theorem timers_afterFault (s : State) (f : Fault) :
    ((s.afterFault f).DT = s.DT ∧ (s.afterFault f).ST = s.ST) ∨
      ((s.afterFault f).DT.toNat = s.DT.toNat - 1 ∧ (s.afterFault f).ST.toNat = s.ST.toNat - 1) := by
  simp only [State.afterFault]
  split
  · exact .inr ⟨toNat_countDown s.DT, toNat_countDown s.ST⟩
  · exact .inl ⟨rfl, rfl⟩

/-- Settles O17: the state beside a report is the one before the tick, with the report and each free effect. -/
theorem faultingTickWritesNothing : Obligations.FaultingTickWritesNothing := by
  intro s u f h
  obtain ⟨r, -, hr, -⟩ := report_of_tickFaults (tickFaults_of_report h)
  have hstep := step_of_tick_report h
  cases eq_afterFault_of_tick_report h
  have hhalted : (s.afterFault f).fault ≠ none := fun hnone => by cases hr.symm.trans hnone
  refine ⟨hstep, rfl, rfl, (ite_eq_or_eq ..).symm, (ite_eq_or_eq ..).symm, timers_afterFault s f, ?_⟩
  exact (haltedBlockTakesNoTick _ hhalted).2

end Sys2Proof.Machine
end

section
/-! The invariant of the machine and the font region, under every step (spec/10_state.md R25, R28; spec/20_memory.md R66). -/

namespace Sys2Proof.Machine

section
variable {i : Instr} {s : State}

/-- A store that raises no fault starts past the font region and ends inside memory (R65, R66). -/
theorem store_in_range (h : faultOf i s = none) (hw : 0 < storeWidth i) :
    fontEnd ≤ s.I.toNat ∧ s.I.toNat + storeWidth i ≤ Config.memSize := by
  cases i with
  | ldBcdVx | ldMemVx => exact (storeFault_eq_none_iff _ _ _ hw).mp h
  | _ => cases hw

/-- An instruction that raises no fault keeps memory canonical. -/
theorem wf_afterInstr (h : faultOf i s = none) (hwf : Memory.wf s.mem) : Memory.wf (afterInstr i s).mem := by
  cases i with
  | ldBcdVx x => exact wf_writeList _ hwf (store_in_range h (Nat.succ_pos _)).2
  | ldMemVx x =>
    refine wf_writeList _ hwf ?_
    rw [length_regBlock]
    exact (store_in_range h (Nat.succ_pos _)).2
  | _ => exact hwf

/-- The instructions that write I write at most 12 bits (R24, R210 to R212). -/
theorem afterInstr_I_le (hI : s.I.toNat ≤ 0xFFF) : (afterInstr i s).I.toNat ≤ 0xFFF := by
  cases i with
  | ldI nnn =>
    have hI : (afterInstr (.ldI nnn) s).I.toNat = nnn.toNat := toNat_zextAddr nnn
    omega
  | addIVx x =>
    have hI : (afterInstr (.addIVx x) s).I.toNat = s.indexSum x % 4096 := toNat_mask12 _
    omega
  | ldFontVx x =>
    have hI : (afterInstr (.ldFontVx x) s).I.toNat = (s.v x).toNat * 5 := toNat_glyphAddr _
    omega
  | _ => exact hI

/-- A pc inside memory does not wrap by a step or a skip. -/
theorem toNat_pc_add {k : Word} (hk : k.toNat ≤ 4) (hpc : s.pc.toNat + 1 < 0x1000) :
    (s.pc + k).toNat = s.pc.toNat + k.toNat := by
  rw [BitVec.toNat_add]
  omega

/-- The pc after an instruction is at most the largest target of Bnnn (R28). -/
theorem nextPc_le (hinv : s.Inv) (hpc : s.pc.toNat + 1 < 0x1000) : (nextPc i s).toNat ≤ 0x10FE := by
  have hnear {k : Word} (hk : k.toNat ≤ 4) : (s.pc + k).toNat ≤ 0x10FE := by
    rw [toNat_pc_add hk hpc]
    omega
  have hnext : (s.pc + 2).toNat ≤ 0x10FE := hnear (by decide)
  have hskip : (s.pc + 4).toNat ≤ 0x10FE := hnear (by decide)
  have hif (c : Prop) [Decidable c] {a b : Word} (ha : a.toNat ≤ 0x10FE) (hb : b.toNat ≤ 0x10FE) :
      (if c then a else b).toNat ≤ 0x10FE := by
    split
    · exact ha
    · exact hb
  cases i with
  | seImm | sneImm | seReg | sneReg | skp => exact hif _ hskip hnext
  | sknp => exact hif _ hnext hskip
  | jp nnn | call nnn =>
    have hnnn : (zextAddr nnn).toNat ≤ 0x10FE := by
      rw [toNat_zextAddr]
      omega
    exact hnnn
  | jpV0 nnn =>
    have hsum : (s.offsetTarget nnn).toNat ≤ 0x10FE := by
      rw [toNat_offsetTarget]
      omega
    rw [offsetTarget_eq_add] at hsum
    exact hsum
  | ret =>
    have hle : s.sp.val ≤ 16 := Nat.le_of_lt_succ s.sp.isLt
    have hsp : s.sp.val - 1 < 16 := by omega
    have hentry : s.stack.toList.getD (s.sp.val - 1) 0 = s.stack[s.sp.val - 1] := getD_toList_of_lt _ _ hsp
    show (s.stack.toList.getD (s.sp.val - 1) 0).toNat ≤ 0x10FE
    rw [hentry]
    exact (hinv.returns ⟨s.sp.val - 1, hsp⟩).trans (by decide)
  | _ => exact hnext

/-- An instruction that raises no fault keeps the invariant, where its own two bytes lie inside memory. -/
theorem afterInstr_inv (hinv : s.Inv) (hpc : s.pc.toNat + 1 < 0x1000) (h : faultOf i s = none) : (afterInstr i s).Inv where
  memory := wf_afterInstr h hinv.memory
  index := afterInstr_I_le hinv.index
  counter := afterInstr_pc i s ▸ nextPc_le hinv hpc
  returns := by
    intro k
    by_cases hk : (afterInstr i s).stack[k] = s.stack[k]
    · rw [hk]
      exact hinv.returns k
    · obtain ⟨⟨nnn, rfl⟩, hsp⟩ := afterInstr_stack_entry i s hk
      rw [stack_afterInstr_call, if_pos hsp, toNat_pc_add (by decide) hpc]
      exact Nat.succ_le_succ (Nat.le_of_lt_succ hpc)

/-- An instruction that raises no fault leaves the font region. -/
theorem read_font_afterInstr (h : faultOf i s = none) {a : Nat} (ha : a < fontEnd) :
    Memory.read (afterInstr i s).mem a = Memory.read s.mem a := by
  apply read_afterInstr
  rintro ⟨hle, hlt⟩
  have := (store_in_range h (by omega)).1
  omega

end

theorem inv_atDispatch {s : State} (h : s.Inv) : s.atDispatch.Inv := ⟨h.memory, h.index, h.counter, h.returns⟩

/-- Settles O25: an instruction by the fields that it writes; a wait tick writes none of the four. -/
theorem stepKeepsInvariant : Obligations.StepKeepsInvariant := by
  intro s t hinv h
  obtain ⟨-, w, i, hw, -, hex⟩ | ⟨hwait, -⟩ := step_next_cases h
  · obtain ⟨hnone, rfl⟩ := exec_eq_next_iff.mp hex
    exact afterInstr_inv (inv_atDispatch hinv) hw.1 hnone
  · rw [eq_of_waiting_step hwait h]
    exact ⟨hinv.memory, hinv.index, hinv.counter, hinv.returns⟩

/-- Settles O27: a store that raises no fault starts past the font region, and nothing else writes memory. -/
theorem stepKeepsFontRegion : Obligations.StepKeepsFontRegion := by
  intro s t h a ha
  obtain ⟨-, w, i, -, -, hex⟩ | ⟨hwait, -⟩ := step_next_cases h
  · obtain ⟨hnone, rfl⟩ := exec_eq_next_iff.mp hex
    exact read_font_afterInstr hnone ha
  · rw [eq_of_waiting_step hwait h]
    rfl

end Sys2Proof.Machine
end

section
/-! Construction with a FONT and the program load (spec/10_state.md R43; spec/70_reset_and_hazards.md R320 to R324). -/

namespace Sys2Proof.Machine

/-! ## Construction -/

/-- The blocks that the statements about construction speak of: constructed with some FONT, or reset. -/
theorem constructed_of_or {s : State} (h : (∃ f, s = State.construct f) ∨ s = State.reset) :
    ∃ f, s = State.construct f :=
  h.elim id fun hreset => ⟨defaultFont, hreset.trans construct_defaultFont.symm⟩

theorem fontIntact_construct (f : Font) : (State.construct f).FontIntact f := fun _ ha =>
  (read_init State.reset f _).trans (if_pos ha)

/-- Above the font region construction leaves 0: the reset memory lists nothing, and FONT ends there. -/
theorem read_construct_of_ge (f : Font) {a : Nat} (ha : 0x050 ≤ a) : Memory.read (State.construct f).mem a = 0 := by
  have hreset : Memory.read State.reset.mem a = font.getD a 0 := rfl
  have hlength : font.length = 0x050 := rfl
  rw [State.construct, read_init, if_neg (not_lt.mpr ha), hreset, List.getD_eq_default _ _ (hlength ▸ ha)]

theorem inv_construct (f : Font) : (State.construct f).Inv where
  memory := wf_init wf_reset f
  index := show State.reset.I.toNat ≤ 0xFFF by decide
  counter := show State.reset.pc.toNat ≤ 0x10FE by decide
  returns k := by simp [State.reset]

/-- Settles O26: for every FONT, and so for the default one, with which reset is constructed. -/
theorem resetMeetsInvariant : Obligations.ResetMeetsInvariant := by
  have hall (f : Font) : (State.construct f).Inv ∧ (State.construct f).FontIntact f :=
    ⟨inv_construct f, fontIntact_construct f⟩
  have hdefault := hall defaultFont
  rw [construct_defaultFont] at hdefault
  exact ⟨hdefault.1, hdefault.2, construct_defaultFont, hall⟩

/-- Settles O28: construction writes FONT below 0x050 and nothing else. -/
theorem constructionState : Obligations.ConstructionState := by
  refine ⟨⟨rfl, fun _ _ => rfl⟩, ?_, fontIntact_construct, ?_⟩
  · intro s hs
    obtain ⟨f, rfl⟩ := constructed_of_or hs
    refine ⟨fun a => read_construct_of_ge f, ?_, rfl, rfl, rfl, ?_, rfl, rfl, ?_, rfl, rfl, cell_blank, rfl, rfl⟩
    · intro r
      simp [State.v, State.reset]
    · intro k
      simp [State.reset]
    · intro k
      simp [State.reset]
  · intro s f
    refine ⟨rfl, fun a ha => (read_init s f a).trans (if_neg (not_lt.mpr ha)), fun a => ?_⟩
    rw [read_init, read_init]
    split <;> rfl

/-! ## Program load -/

/-- A load that answers a next state wrote the program to memory and nothing else. -/
theorem load_eq_next_iff {s t : State} {p : List Byte} :
    s.load p = .next t ↔ p.length ≤ 3584 ∧ t = { s with mem := Memory.writeList s.mem Config.loadAddr p } := by
  have hfit : Config.loadAddr + p.length ≤ Config.memSize ↔ p.length ≤ 3584 := by
    show 0x200 + p.length ≤ 0x1000 ↔ _
    omega
  rw [State.load, ← hfit]
  by_cases h : Config.loadAddr + p.length ≤ Config.memSize
  · simp [h, eq_comm]
  · simp [h]

/-- Settles O29: a load is one run of consecutive writes from 0x200 on, or none. -/
theorem loadCopiesProgram : Obligations.LoadCopiesProgram := by
  intro s p
  constructor
  · intro hp
    refine ⟨_, load_eq_next_iff.mpr ⟨hp, rfl⟩, fun k hk => ?_, fun a ha => ?_, rfl⟩
    · refine (read_writeList p s.mem 0x200 (0x200 + k)).trans ?_
      rw [if_pos (by omega), Nat.add_sub_cancel_left]
    · exact (read_writeList p s.mem 0x200 a).trans (if_neg (by omega))
  · intro hp
    exact if_neg (by show ¬ 0x200 + p.length ≤ 0x1000; omega)

section
variable {f : Font} {p : List Byte} {t : State} (h : (State.construct f).load p = .next t)
include h

/-- From 0x200 on, a loaded block reads as its program, and as 0 after it. -/
theorem read_loaded {a : Nat} (ha : 0x200 ≤ a) : Memory.read t.mem a = p.getD (a - 0x200) 0 := by
  obtain ⟨-, rfl⟩ := load_eq_next_iff.mp h
  refine (read_writeList p _ 0x200 a).trans ?_
  split
  · rfl
  · rw [read_construct_of_ge f (by omega), List.getD_eq_default _ _ (by omega)]

theorem pc_loaded : t.pc = 0x200 := by
  obtain ⟨-, rfl⟩ := load_eq_next_iff.mp h
  rfl

theorem running_loaded : t.Running := by
  obtain ⟨-, rfl⟩ := load_eq_next_iff.mp h
  exact ⟨rfl, rfl⟩

theorem holdsWord_loaded_iff {w : Word} :
    t.HoldsWord w ↔ w.toNat = 256 * (Memory.read t.mem 0x200).toNat + (Memory.read t.mem 0x201).toNat := by
  rw [State.HoldsWord, pc_loaded h]
  exact and_iff_right (by decide)

end

/-- Settles O30: a loaded block runs, and holds the program's first two bytes at its pc. -/
theorem firstTickExecutesLoadedWord : Obligations.FirstTickExecutesLoadedWord := by
  constructor
  · intro s p t hs h
    obtain ⟨f, rfl⟩ := constructed_of_or hs
    have hword := @holdsWord_loaded_iff f p t h
    refine ⟨pc_loaded h, fun w => ?_, fun w i hw hi => step_of_decode (running_loaded h) (hword.mpr hw) hi⟩
    rw [hword, read_loaded h (by decide), read_loaded h (by decide)]
  · intro s t hs h
    obtain ⟨f, rfl⟩ := constructed_of_or hs
    have hzero : t.HoldsWord 0 := by
      rw [holdsWord_loaded_iff h, read_loaded h (by decide), read_loaded h (by decide)]
      rfl
    exact step_of_decode (running_loaded h) hzero (decode_encode (i := .sys 0) rfl)

end Sys2Proof.Machine
end

section
/-! Control flow (spec/41_control_flow.md): returns, calls, jumps, and the skips on an immediate and on a key. -/

namespace Sys2Proof.Machine

/-! ## Returns and calls -/

/-- Settles O31: the popped entry is the one below the pointer; a faulting tick writes nothing. -/
theorem returnPops : Obligations.ReturnPops := by
  refine ⟨rfl, fun s hsp => ?_, fun s hsp => exec_eq_fault_iff.mpr (if_pos hsp), fun s u f h => ?_⟩
  · have hnone : faultOf .ret s = none := if_neg (Nat.ne_of_gt hsp)
    refine ⟨afterInstr .ret s, exec_of_no_fault hnone, rfl, fun k hk => ?_, rfl⟩
    have htop : s.sp.val - 1 = k.val := by omega
    show s.stack.toList.getD (s.sp.val - 1) 0 = s.stack[k]
    rw [htop]
    exact getD_toList_of_lt s.stack 0 k.isLt
  · rw [eq_afterFault_of_tick_report h]
    exact ⟨rfl, rfl⟩

/-- A call faults exactly on a full stack (R282). -/
theorem faultOf_call_eq_none_iff {nnn : Addr12} {s : State} : faultOf (.call nnn) s = none ↔ s.sp.val < 16 := by
  have hle : s.sp.val ≤ 16 := Nat.le_of_lt_succ s.sp.isLt
  by_cases hfull : s.sp.val = 16
  · have hfault : faultOf (.call nnn) s = some _ := if_pos hfull
    exact iff_of_false (by simp [hfault]) (by omega)
  · exact iff_of_true (if_neg hfull) (by omega)

theorem sp_afterInstr_call (nnn : Addr12) {s : State} (h : s.sp.val < 16) :
    (afterInstr (.call nnn) s).sp.val = s.sp.val + 1 :=
  Nat.min_eq_left h

/-- Settles O34: the push writes one entry, and the pc is set after it. -/
theorem callPushesReturnAddress : Obligations.CallPushesReturnAddress := by
  intro nnn s
  refine ⟨fun hsp => ?_, fun hsp => exec_eq_fault_iff.mpr (if_pos hsp)⟩
  have hexec := exec_of_no_fault (faultOf_call_eq_none_iff (nnn := nnn).mpr hsp)
  exact ⟨_, hexec, rfl, sp_afterInstr_call nnn hsp, stack_afterInstr_call s nnn, rfl⟩

/-- Settles O35: the return pops the entry that the call pushed. -/
theorem returnFollowsCall : Obligations.ReturnFollowsCall := by
  intro nnn s t u hcall husp hustack
  obtain ⟨hnone, rfl⟩ := exec_eq_next_iff.mp hcall
  have hsp : s.sp.val < 16 := faultOf_call_eq_none_iff.mp hnone
  have husp' : u.sp.val = s.sp.val + 1 := (congrArg Fin.val husp).trans (sp_afterInstr_call nnn hsp)
  obtain ⟨-, hret, -, -⟩ := returnPops
  obtain ⟨r, hr, hrsp, hpc, -⟩ := hret u (by omega)
  refine ⟨r, hr, ?_, Fin.ext (by omega)⟩
  have htop := hpc ⟨s.sp.val, hsp⟩ husp'.symm
  rw [htop, hustack, stack_afterInstr_call, if_pos rfl]

/-! ## Jumps -/

/-- Settles O32: 0nnn is one move to the next word. -/
theorem sysIsNoOperation : Obligations.SysIsNoOperation := fun _ _ => rfl

/-- Settles O33: 1nnn is one write of the pc, with no test of its value. -/
theorem jumpSetsPc : Obligations.JumpSetsPc := fun nnn => ⟨decode_encode (i := .jp nnn) rfl, fun _ => rfl⟩

/-- Settles O36: the sum is at most 0x10FE, and so fits the pc. -/
theorem jumpPlusV0 : Obligations.JumpPlusV0 := fun nnn s =>
  ⟨s.setPc (s.offsetTarget nnn), rfl, toNat_offsetTarget s nnn, rfl⟩

/-! ## Skips -/

/-- Settles O37: each skip is one move of the pc, by the test of its operand. -/
theorem skipOnImmediate : Obligations.SkipOnImmediate := by
  intro x nn
  refine ⟨decode_encode (i := .seImm x nn) rfl, decode_encode (i := .sneImm x nn) rfl, fun s => ⟨?_, ?_⟩⟩
  · exact congrArg Host.Outcome.next (skipIf_of_iff s beq_iff_eq)
  · exact congrArg Host.Outcome.next (skipIf_of_iff s bne_iff_ne)

/-- Settles O39: a key number selects its key, and any other byte faults. -/
theorem skipOnKey : Obligations.SkipOnKey := by
  intro x s
  constructor
  · intro k hk
    have hlt : (s.v x).toNat < 16 := hk ▸ k.isLt
    have hkey : s.keys[(s.v x).toNat]'hlt = s.keys[k] := by simp only [hk, Fin.getElem_fin]
    constructor
    · refine (execSkp_eq x s).trans ?_
      rw [dif_pos hlt, hkey]
      rfl
    · refine (execSknp_eq x s).trans ?_
      rw [dif_pos hlt, hkey]
      cases s.keys[k] <;> rfl
  · intro hge
    exact ⟨exec_eq_fault_iff.mpr (if_pos hge), exec_eq_fault_iff.mpr (if_pos hge)⟩

end Sys2Proof.Machine
end

section
/-! The register forms of the ALU (spec/42_alu.md R184 to R193). -/

namespace Sys2Proof.Machine

/-- Settles O42: each of the four is one flagless assignment. -/
theorem moveAndLogic : Obligations.MoveAndLogic := by
  rintro x y s i b (⟨rfl, rfl⟩ | ⟨rfl, rfl⟩ | ⟨rfl, rfl⟩ | ⟨rfl, rfl⟩)
  all_goals exact ⟨s.assign x _, rfl, fun r => v_assign s x r _, rfl⟩

/-- Settles O46: one flagless assignment, of the tick's byte under the mask. -/
theorem randomUnderMask : Obligations.RandomUnderMask := fun x nn s =>
  ⟨s.assign x (s.rnd &&& nn), rfl, fun r => v_assign s x r _, rfl⟩

/-! ## Results with a flag -/

/-- A flag as the number that VF receives. -/
theorem flagByte_decide (p : Prop) [Decidable p] : flagByte (decide p) = if p then 1 else 0 := by
  by_cases h : p <;> simp [flagByte, h]

/-- A difference mod 256 is the difference of the numbers, taken mod 256. -/
theorem sub_eq_ofInt (a b : Byte) : a - b = BitVec.ofInt 8 ((a.toNat : Int) - b.toNat) := by
  apply BitVec.eq_of_toNat_eq
  have ha := a.isLt
  have hb := b.isLt
  rw [BitVec.toNat_sub, BitVec.toNat_ofInt]
  omega

/-- What an instruction with a flag leaves, its result and its flag given as the bytes that they are: the result in V[x], the
flag in VF last, and the pc at the next word (R181). -/
theorem exec_assignFlag {i : Instr} {s : State} {x : Reg} {b result flag : Byte} {f : Bool}
    (h : exec i s = .next (s.assignFlag x b f)) (hb : b = result) (hf : flagByte f = flag) :
    ∃ t, exec i s = .next t ∧ (∀ r : Reg, t.v r = if r = 0xF then flag else if r = x then result else s.v r) ∧
      t = { s with V := t.V, pc := s.pc + 2 } := by
  subst hb hf
  exact ⟨s.assignFlag x b f, h, fun r => v_assignFlag s x r b f, rfl⟩

/-- Settles O43: the byte sum is the sum mod 256, and the flag its carry. -/
theorem addWithCarry : Obligations.AddWithCarry := by
  intro x y s
  refine exec_assignFlag rfl ?_ (flagByte_decide _)
  apply BitVec.eq_of_toNat_eq
  simp

/-- Settles O44: the byte difference is the difference mod 256, and the flag the comparison of the operands. -/
theorem subtractWithNotBorrow : Obligations.SubtractWithNotBorrow := by
  intro x y s
  constructor
  · exact exec_assignFlag rfl (sub_eq_ofInt (s.v x) (s.v y)) (flagByte_decide _)
  · exact exec_assignFlag rfl (sub_eq_ofInt (s.v y) (s.v x)) (flagByte_decide _)

/-- The bit that a right shift moves out is the remainder by 2. -/
theorem shiftedOutRight_eq (a : Byte) : flagByte (shiftedOutRight a) = BitVec.ofNat 8 (a.toNat % 2) := by
  rw [shiftedOutRight, BitVec.getLsbD, Nat.testBit_zero, flagByte_decide]
  rcases Nat.mod_two_eq_zero_or_one a.toNat with h | h <;> simp [h]

/-- The bit that a left shift moves out is the quotient by 128. -/
theorem shiftedOutLeft_eq (a : Byte) : flagByte (shiftedOutLeft a) = BitVec.ofNat 8 (a.toNat / 128) := by
  have ha := a.isLt
  have htop : shiftedOutLeft a = decide (a.toNat / 128 % 2 = 1) := by
    rw [shiftedOutLeft, BitVec.getLsbD, Nat.testBit_eq_decide_div_mod_eq]
  rw [htop, flagByte_decide]
  have : a.toNat / 128 = 0 ∨ a.toNat / 128 = 1 := by omega
  rcases this with h | h <;> simp [h]

/-- Settles O45: shifts of a byte as quotient and product, and the bits shifted out as numbers. -/
theorem shiftByOne : Obligations.ShiftByOne := by
  intro x y s
  constructor
  · refine exec_assignFlag rfl ?_ (shiftedOutRight_eq _)
    apply BitVec.eq_of_toNat_eq
    have := (s.v x).isLt
    simp
    omega
  · refine exec_assignFlag rfl ?_ (shiftedOutLeft_eq _)
    apply BitVec.eq_of_toNat_eq
    simp
    omega

end Sys2Proof.Machine
end

section
/-! The index register and memory (spec/43_index_memory.md R211 to R215). -/

namespace Sys2Proof.Machine

/-! ## The index register -/

/-- I after Fx1E, whatever the policy for VF (D10). -/
theorem toNat_addIndex_I (s : State) (policy : Fx1ePolicy) (x : Reg) :
    (s.addIndex policy x).I.toNat = (s.I.toNat + (s.v x).toNat) % 0x1000 := by
  rw [State.addIndex, setVFlag?_frame]
  exact toNat_mask12 _

/-- A register after Fx1E: VF holds the flag where the policy gives one. -/
theorem v_addIndex (s : State) (policy : Fx1ePolicy) (x r : Reg) :
    (s.addIndex policy x).v r = if r = 0xF then (indexFlag policy (s.indexSum x)).getD (s.v r) else s.v r := by
  rw [State.addIndex]
  cases indexFlag policy (s.indexSum x) with
  | none => exact (ite_self _).symm
  | some b => exact v_setV _ regF r b

/-- Settles O48: I by the mask, whatever the policy, and VF by the policy. -/
theorem addToIndex : Obligations.AddToIndex := by
  intro x s
  have hI (p : Fx1ePolicy) := toNat_addIndex_I s p x
  refine ⟨⟨(s.addIndex fx1ePolicy x).advance, rfl, hI fx1ePolicy, fun r => ?_, rfl⟩, fun r => ?_, fun r => ?_, hI⟩
  · refine (v_addIndex s .setOrClear x r).trans ?_
    exact if_congr Iff.rfl (flagByte_decide _) rfl
  · rw [v_addIndex, indexFlag, indexOverflow, ite_and, State.indexSum]
    simp only [decide_eq_true_eq]
    split
    · split <;> rfl
    · rfl
  · rw [v_addIndex]
    exact ite_self _

/-- Settles O49: the product is at most 255 * 5, and so fits I. -/
theorem indexOfGlyph : Obligations.IndexOfGlyph := fun x s =>
  ⟨(s.setI (glyphAddr (s.v x))).advance, rfl, toNat_glyphAddr _, rfl⟩

/-! ## Stores -/

/-- What Fx33 leaves at an address: the three digits from I on, and every other byte as it was (R213). -/
theorem read_afterInstr_ldBcdVx (x : Reg) (s : State) (a : Nat) :
    Memory.read (afterInstr (.ldBcdVx x) s).mem a =
      if s.I.toNat ≤ a ∧ a < s.I.toNat + 3 then (bcdDigits (s.v x)).getD (a - s.I.toNat) 0 else Memory.read s.mem a :=
  read_writeList _ _ _ _

theorem read_stored_digit (x : Reg) (s : State) {k : Nat} (hk : k < 3) :
    Memory.read (afterInstr (.ldBcdVx x) s).mem (s.I.toNat + k) = (bcdDigits (s.v x)).getD k 0 := by
  rw [read_afterInstr_ldBcdVx, if_pos (by omega), Nat.add_sub_cancel_left]

/-- Settles O50: the three digits are consecutive writes from I on. -/
theorem storeDecimalDigits : Obligations.StoreDecimalDigits := by
  intro x s hfont hend
  have hnone : faultOf (.ldBcdVx x) s = none :=
    (storeFault_eq_none_iff s _ _ (Nat.succ_pos _)).mpr ⟨hfont, hend⟩
  have hv := (s.v x).isLt
  have digit {k d : Nat} (hk : k < 3) (hd : (bcdDigits (s.v x)).getD k 0 = BitVec.ofNat 8 d) (hlt : d < 256) :
      (Memory.read (afterInstr (.ldBcdVx x) s).mem (s.I.toNat + k)).toNat = d := by
    rw [read_stored_digit x s hk, hd, BitVec.toNat_ofNat, Nat.mod_eq_of_lt hlt]
  refine ⟨_, exec_of_no_fault hnone, ?_, ?_, ?_, fun a ha => ?_, rfl⟩
  · exact digit (k := 0) (by omega) rfl (by omega)
  · exact digit (k := 1) (by omega) rfl (by omega)
  · exact digit (k := 2) (by omega) rfl (by omega)
  · exact (read_afterInstr_ldBcdVx x s a).trans (if_neg (by omega))

/-- What Fx55 leaves at an address: V[0] to V[x] from I on, and every other byte as it was (R214). -/
theorem read_afterInstr_ldMemVx (x : Reg) (s : State) (a : Nat) :
    Memory.read (afterInstr (.ldMemVx x) s).mem a =
      if s.I.toNat ≤ a ∧ a < s.I.toNat + (x.val + 1) then (s.regBlock x).getD (a - s.I.toNat) 0
      else Memory.read s.mem a := by
  refine (read_writeList _ _ _ _).trans ?_
  rw [length_regBlock]

theorem read_stored_reg {x r : Reg} (s : State) (hr : r ≤ x) :
    Memory.read (afterInstr (.ldMemVx x) s).mem (s.I.toNat + r.val) = s.v r := by
  have hle : r.val ≤ x.val := hr
  rw [read_afterInstr_ldMemVx, if_pos (by omega), Nat.add_sub_cancel_left, getD_regBlock s x r.val hle]

/-- Settles O51: the block of registers is consecutive writes from I on. -/
theorem storeRegisters : Obligations.StoreRegisters := by
  intro x s hfont hend
  have hnone : faultOf (.ldMemVx x) s = none :=
    (storeFault_eq_none_iff s _ _ (Nat.succ_pos _)).mpr ⟨hfont, hend⟩
  refine ⟨_, exec_of_no_fault hnone, fun r => read_stored_reg s, fun a ha => ?_, rfl⟩
  exact (read_afterInstr_ldMemVx x s a).trans (if_neg (by omega))

/-! ## Loads -/

/-- What Fx65 leaves in a register: the byte of its place in V[0] to V[x], and every other register as it was (R215). -/
theorem v_afterInstr_ldVxMem (x r : Reg) (s : State) :
    (afterInstr (.ldVxMem x) s).v r = if r ≤ x then Memory.read s.mem (s.I.toNat + r.val) else s.v r := by
  refine (v_loadRegs _ s 0 r).trans ?_
  rw [List.length_map, List.length_range']
  by_cases h : r ≤ x
  · have hle : r.val ≤ x.val := h
    rw [if_pos (by omega), if_pos h]
    simp [List.getD_eq_getElem?_getD, Nat.lt_succ_of_le hle]
  · have hlt : ¬ r.val ≤ x.val := h
    rw [if_neg (by omega), if_neg h]

/-- Settles O52: the bytes from I on go to consecutive registers from V0 on. -/
theorem loadRegisters : Obligations.LoadRegisters := by
  intro x s hend
  have hnone : faultOf (.ldVxMem x) s = none := (rangeFault_eq_none_iff s _ _).mpr (.inl hend)
  exact ⟨_, exec_of_no_fault hnone, fun r => v_afterInstr_ldVxMem x r s, rfl⟩

/-- Settles O53: the load reads at each place what the dump stored there, and its range is the dump's. -/
theorem dumpThenLoadRestores : Obligations.DumpThenLoadRestores := by
  intro x s t u hdump hmem hI
  obtain ⟨hnone, rfl⟩ := exec_eq_next_iff.mp hdump
  obtain ⟨-, hend⟩ := store_in_range hnone (Nat.succ_pos _)
  have huI : u.I = s.I := hI
  obtain ⟨w, hw, hv, -⟩ := loadRegisters x u (huI ▸ hend)
  refine ⟨w, hw, fun r hr => ?_⟩
  rw [hv, if_pos hr, hmem, huI, read_stored_reg s hr]

end Sys2Proof.Machine
end

section
/-! The timers and the key wait (spec/44_timers_keys.md R240 to R243). -/

namespace Sys2Proof.Machine

section
variable {s t : State} {i : Instr} (hi : i.wf = true) (hrun : s.Running) (hw : s.HoldsWord (encode i))
include hi hrun hw

/-- The completed step of a running block that holds the word of an instruction leaves what that instruction leaves. -/
theorem eq_afterInstr_of_encode (h : step s = .next t) : t = afterInstr i s.atDispatch :=
  eq_afterInstr_of_step hrun hw (decode_encode hi) h

end

/-- Settles O54: Fx07 is one flagless assignment; Fx15 runs after the countdown and so over it. -/
theorem delayTimerTransfers : Obligations.DelayTimerTransfers := by
  intro x s
  refine ⟨⟨s.assign x s.DT, rfl, fun r => v_assign s x r s.DT, rfl⟩, rfl, fun t hrun hw h => ?_⟩
  rw [eq_afterInstr_of_encode rfl hrun hw h]
  rfl

/-- Settles O55: the snapshot is taken from the state that the write left. -/
theorem writeSoundTimer : Obligations.WriteSoundTimer := by
  intro x s
  refine ⟨rfl, fun out t hrun hw h => ?_⟩
  obtain ⟨hnext, hsnapshot, -⟩ := snapshotOfTick
  have hstep : step s = .next t := (hnext s t).mpr ⟨out, h⟩
  obtain ⟨-, -, hbeep⟩ := hsnapshot s t out h
  have hST : t.ST = s.v x := by
    rw [eq_afterInstr_of_encode rfl hrun hw hstep]
    rfl
  rw [hbeep, hST]

/-- Settles O56: Fx0A by what it leaves, and a wait tick by what it leaves. -/
theorem keyWaitSetsLatch : Obligations.KeyWaitSetsLatch := by
  intro x
  refine ⟨decode_encode (i := .ldVxKey x) rfl, fun _ => rfl, fun s t hrun hw h => ?_, fun s t hwait h => ?_⟩
  · rw [eq_afterInstr_of_encode (i := .ldVxKey x) rfl hrun hw h]
    exact ⟨⟨hrun.1, rfl⟩, rfl, rfl, rfl⟩
  · rw [eq_of_waiting_step hwait h]
    exact ⟨rfl, rfl, rfl⟩

end Sys2Proof.Machine
end

section
/-! The draw (spec/45_display.md R262): a sprite as the list of its strokes, one for each of its bits, which meet each cell
of the framebuffer at most once. -/

namespace Sys2Proof.Machine

/-- One bit of a sprite and the cell that it falls on. -/
structure Stroke where
  row : Fin Config.fbH
  column : Fin Config.fbW
  bit : Bool

/-- The bit that a stroke sets in a cell. -/
def Stroke.paints (k : Stroke) (Y : Fin Config.fbH) (X : Fin Config.fbW) : Bool :=
  decide (k.row = Y) && decide (k.column = X) && k.bit

/-- The two strokes fall on different cells. -/
def Stroke.Apart (k l : Stroke) : Prop := k.row = l.row → k.column ≠ l.column

/-- The strokes of one sprite row. -/
def rowStrokes (vx : Nat) (Y : Fin Config.fbH) (row : Byte) : List Stroke :=
  (List.range 8).map fun c => ⟨Y, columnOf (vx + c), row.getLsbD (7 - c)⟩

/-- The strokes of a sprite, row by row. -/
def strokes (vx : Nat) : Nat → List Byte → List Stroke
  | _, [] => []
  | vy, row :: rows => rowStrokes vx (rowOf vy) row ++ strokes vx (vy + 1) rows

/-- The strokes drawn one after the other. -/
def drawStrokes (cv : Canvas) (ks : List Stroke) : Canvas := ks.foldl (fun cv k => drawBit cv k.row k.column k.bit) cv

/-- A draw is its strokes one after the other. -/
theorem drawRows_eq_drawStrokes (vx : Nat) (rows : List Byte) : ∀ (cv : Canvas) (vy : Nat),
    drawRows cv vx vy rows = drawStrokes cv (strokes vx vy rows) := by
  induction rows with
  | nil => intro cv vy; rfl
  | cons row rows ih =>
    intro cv vy
    rw [drawRows, ih, strokes, drawStrokes, drawStrokes, List.foldl_append, rowStrokes, List.foldl_map]
    rfl

/-- The sprite bit of a cell is the bit of some stroke that falls on it. -/
theorem spriteBit_eq_any (vx : Nat) (Y : Fin Config.fbH) (X : Fin Config.fbW) (rows : List Byte) : ∀ vy : Nat,
    spriteBit rows vx vy Y X = (strokes vx vy rows).any (fun k => k.paints Y X) := by
  induction rows with
  | nil => intro vy; rfl
  | cons row rows ih =>
    intro vy
    have hnext (r : Nat) : rowOf (vy + r.succ) = rowOf (vy + 1 + r) := congrArg rowOf (by omega)
    rw [strokes, List.any_append, ← ih, rowStrokes, List.any_map, spriteBit, List.length_cons, List.range_succ_eq_map,
      List.any_cons, List.any_map]
    simp only [spriteBit, Function.comp_def, hnext, List.getD_cons_succ]
    rfl

/-! ## The strokes of a sprite fall on different cells -/

/-- The strokes of one row lie in 8 neighbouring columns, which 64 columns keep apart. -/
theorem rowStrokes_apart (vx : Nat) (Y : Fin Config.fbH) (row : Byte) : (rowStrokes vx Y row).Pairwise Stroke.Apart := by
  refine List.pairwise_map.mpr (List.pairwise_lt_range.imp_of_mem fun {c d} hc hd hlt _ heq => ?_)
  have hd8 : d < 8 := List.mem_range.mp hd
  have hmod : (vx + c) % 64 = (vx + d) % 64 := congrArg Fin.val heq
  omega

theorem row_of_mem_rowStrokes {vx : Nat} {Y : Fin Config.fbH} {row : Byte} {k : Stroke} (h : k ∈ rowStrokes vx Y row) :
    k.row = Y := by
  obtain ⟨c, -, rfl⟩ := List.mem_map.mp h
  rfl

theorem row_of_mem_strokes {vx : Nat} {k : Stroke} (rows : List Byte) : ∀ vy : Nat, k ∈ strokes vx vy rows →
    ∃ r < rows.length, k.row = rowOf (vy + r) := by
  induction rows with
  | nil => rintro vy ⟨⟩
  | cons row rows ih =>
    intro vy h
    obtain h | h := List.mem_append.mp h
    · exact ⟨0, Nat.succ_pos _, row_of_mem_rowStrokes h⟩
    · obtain ⟨r, hr, hk⟩ := ih (vy + 1) h
      exact ⟨r + 1, Nat.succ_lt_succ hr, hk.trans (congrArg rowOf (by omega))⟩

/-- A sprite of at most 32 rows meets each cell at most once. -/
theorem strokes_apart (vx : Nat) (rows : List Byte) : ∀ vy : Nat, rows.length ≤ 32 →
    (strokes vx vy rows).Pairwise Stroke.Apart := by
  induction rows with
  | nil => intro _ _; exact List.Pairwise.nil
  | cons row rows ih =>
    intro vy hlen
    rw [List.length_cons] at hlen
    refine List.pairwise_append.mpr ⟨rowStrokes_apart vx _ row, ih (vy + 1) (by omega), fun k hk l hl heq => ?_⟩
    obtain ⟨r, hr, hl⟩ := row_of_mem_strokes rows (vy + 1) hl
    have hrow : rowOf vy = rowOf (vy + 1 + r) := (row_of_mem_rowStrokes hk).symm.trans (heq.trans hl)
    have hmod : vy % 32 = (vy + 1 + r) % 32 := congrArg Fin.val hrow
    omega

/-! ## What strokes leave -/

theorem drawStrokes_cons (cv : Canvas) (k : Stroke) (ks : List Stroke) :
    drawStrokes cv (k :: ks) = drawStrokes (drawBit cv k.row k.column k.bit) ks := rfl

/-- One stroke XORs its bit into its own cell. -/
theorem cell_drawBit_stroke (cv : Canvas) (k : Stroke) (Y : Fin Config.fbH) (X : Fin Config.fbW) :
    (drawBit cv k.row k.column k.bit).fb.cell Y X = (cv.fb.cell Y X ^^ k.paints Y X) := by
  rw [cell_drawBit, Stroke.paints, Bool.and_comm]
  simp only [eq_comm]

theorem paints_eq_true_iff {k : Stroke} {Y : Fin Config.fbH} {X : Fin Config.fbW} :
    k.paints Y X = true ↔ (k.row = Y ∧ k.column = X) ∧ k.bit = true := by
  simp only [Stroke.paints, Bool.and_eq_true, decide_eq_true_eq]

/-- A stroke sets no bit in a cell that a stroke apart from it falls on. -/
theorem paints_eq_false_of_apart {k l : Stroke} (h : k.Apart l) : k.paints l.row l.column = false := by
  by_contra hp
  obtain ⟨⟨hrow, hcolumn⟩, -⟩ := paints_eq_true_iff.mp (Bool.not_eq_false _ ▸ hp)
  exact h hrow hcolumn

theorem apart_symm {k l : Stroke} (h : k.Apart l) : l.Apart k := fun hrow hcolumn => h hrow.symm hcolumn.symm

/-- Strokes on different cells XOR their bits into the framebuffer. -/
theorem cell_drawStrokes (Y : Fin Config.fbH) (X : Fin Config.fbW) (ks : List Stroke) : ∀ cv : Canvas,
    ks.Pairwise Stroke.Apart →
    (drawStrokes cv ks).fb.cell Y X = (cv.fb.cell Y X ^^ ks.any (fun k => k.paints Y X)) := by
  induction ks with
  | nil => intro cv _; exact (Bool.xor_false _).symm
  | cons k ks ih =>
    intro cv h
    obtain ⟨hk, hks⟩ := List.pairwise_cons.mp h
    rw [drawStrokes_cons, ih _ hks, cell_drawBit_stroke, List.any_cons]
    cases hp : k.paints Y X with
    | false => simp
    | true =>
      obtain ⟨⟨rfl, rfl⟩, -⟩ := paints_eq_true_iff.mp hp
      have hrest : ks.any (fun l => l.paints k.row k.column) = false :=
        List.any_eq_false.mpr fun l hl => by simp [paints_eq_false_of_apart (apart_symm (hk l hl))]
      simp [hrest]

/-- Strokes on different cells collide where one sets a bit in a cell that was set before the draw. -/
theorem coll_drawStrokes (ks : List Stroke) : ∀ cv : Canvas, ks.Pairwise Stroke.Apart →
    ((drawStrokes cv ks).coll = true ↔
      cv.coll = true ∨ ∃ k ∈ ks, k.bit = true ∧ cv.fb.cell k.row k.column = true) := by
  induction ks with
  | nil => intro cv _; simp [drawStrokes]
  | cons k ks ih =>
    intro cv h
    obtain ⟨hk, hks⟩ := List.pairwise_cons.mp h
    have hkeep : ∀ l ∈ ks, (drawBit cv k.row k.column k.bit).fb.cell l.row l.column = cv.fb.cell l.row l.column := by
      intro l hl
      rw [cell_drawBit_stroke, paints_eq_false_of_apart (hk l hl), Bool.xor_false]
    have hrest : (∃ l ∈ ks, l.bit = true ∧ (drawBit cv k.row k.column k.bit).fb.cell l.row l.column = true) ↔
        ∃ l ∈ ks, l.bit = true ∧ cv.fb.cell l.row l.column = true :=
      exists_congr fun l => and_congr_right fun hl => by rw [hkeep l hl]
    rw [drawStrokes_cons, ih _ hks, hrest, coll_drawBit]
    simp [or_assoc]

/-! ## The draw -/

section
variable (s : State) (x y : Reg) {rows : List Byte} (h : rows.length ≤ 32)
include h

/-- A sprite XORs its bits into the framebuffer. -/
theorem cell_drawSprite (Y : Fin Config.fbH) (X : Fin Config.fbW) :
    (s.drawSprite x y rows).fb.cell Y X = (s.fb.cell Y X ^^ spriteBit rows (s.v x).toNat (s.v y).toNat Y X) := by
  rw [State.drawSprite, drawRows_eq_drawStrokes, cell_drawStrokes Y X _ _ (strokes_apart _ rows _ h), spriteBit_eq_any]

/-- A sprite collides where one of its set bits falls on a set cell. -/
theorem coll_drawSprite : (s.drawSprite x y rows).coll = true ↔
    ∃ Y X, s.fb.cell Y X = true ∧ spriteBit rows (s.v x).toNat (s.v y).toNat Y X = true := by
  rw [State.drawSprite, drawRows_eq_drawStrokes, coll_drawStrokes _ _ (strokes_apart _ rows _ h)]
  simp only [Bool.false_eq_true, false_or, spriteBit_eq_any, List.any_eq_true, paints_eq_true_iff]
  constructor
  · rintro ⟨k, hk, hbit, hcell⟩
    exact ⟨k.row, k.column, hcell, k, hk, ⟨rfl, rfl⟩, hbit⟩
  · rintro ⟨_, _, hcell, k, hk, ⟨rfl, rfl⟩, hbit⟩
    exact ⟨k, hk, hbit, hcell⟩

end

section
variable (x y : Reg) (n : Nibble) (s : State)

/-- A draw raises no fault exactly where its bytes lie inside memory or it has none (R64, R262). -/
theorem faultOf_drw_eq_none_iff : faultOf (.drw x y n) s = none ↔ s.I.toNat + n.toNat ≤ 0x1000 ∨ n.toNat = 0 :=
  rangeFault_eq_none_iff s _ _

theorem length_spriteRows_le : (s.spriteRows n).length ≤ 32 := by
  rw [State.spriteRows, List.length_map, List.length_range]
  omega

theorem cell_afterInstr_drw (Y : Fin Config.fbH) (X : Fin Config.fbW) : (afterInstr (.drw x y n) s).fb.cell Y X =
    (s.fb.cell Y X ^^ spriteBit (s.spriteRows n) (s.v x).toNat (s.v y).toNat Y X) :=
  cell_drawSprite s x y (length_spriteRows_le n s) Y X

theorem v_afterInstr_drw (r : Reg) :
    (afterInstr (.drw x y n) s).v r = if r = 0xF then flagByte (s.drawSprite x y (s.spriteRows n)).coll else s.v r :=
  v_setV _ regF r _

end

/-- Settles O58: the sprite's strokes fall on different cells, so each cell takes at most one set bit. -/
theorem drawXorsSprite : Obligations.DrawXorsSprite := by
  intro x y n s hrange
  have hnone : faultOf (.drw x y n) s = none :=
    (faultOf_drw_eq_none_iff x y n s).mpr (hrange.symm.imp_right (congrArg BitVec.toNat))
  have hcoll := coll_drawSprite s x y (length_spriteRows_le n s)
  have hVF : (afterInstr (.drw x y n) s).v 0xF = flagByte (s.drawSprite x y (s.spriteRows n)).coll :=
    (v_afterInstr_drw x y n s 0xF).trans (if_pos rfl)
  refine ⟨_, exec_of_no_fault hnone, cell_afterInstr_drw x y n s, fun hmet => ?_, fun hclear => ?_, fun r hr => ?_, rfl⟩
  · rw [hVF, hcoll.mpr hmet]
    rfl
  · have hnot : (s.drawSprite x y (s.spriteRows n)).coll = false := by
      refine Bool.eq_false_iff.mpr fun hc => ?_
      obtain ⟨Y, X, hcell, hbit⟩ := hcoll.mp hc
      cases (hclear Y X hcell).symm.trans hbit
    rw [hVF, hnot]
    rfl
  · exact (v_afterInstr_drw x y n s r).trans (if_neg hr)

/-- A framebuffer is its cells. -/
theorem fb_ext {a b : Framebuffer} (h : ∀ Y X, a.cell Y X = b.cell Y X) : a = b :=
  Vector.ext fun Y hY => Vector.ext fun X hX => h ⟨Y, hY⟩ ⟨X, hX⟩

/-- Settles O59: the second draw XORs the same bits into the same cells. -/
theorem drawTwiceRestores : Obligations.DrawTwiceRestores := by
  intro x y n s t hx hy h
  obtain ⟨hnone, rfl⟩ := exec_eq_next_iff.mp h
  have hvx : (afterInstr (.drw x y n) s).v x = s.v x := (v_afterInstr_drw x y n s x).trans (if_neg hx)
  have hvy : (afterInstr (.drw x y n) s).v y = s.v y := (v_afterInstr_drw x y n s y).trans (if_neg hy)
  have hrows : (afterInstr (.drw x y n) s).spriteRows n = s.spriteRows n := rfl
  have hnone' : faultOf (.drw x y n) (afterInstr (.drw x y n) s) = none :=
    (faultOf_drw_eq_none_iff x y n _).mpr ((faultOf_drw_eq_none_iff x y n s).mp hnone)
  refine ⟨_, exec_of_no_fault hnone', fb_ext fun Y X => ?_⟩
  rw [cell_afterInstr_drw, cell_afterInstr_drw, hvx, hvy, hrows, Bool.xor_assoc, Bool.xor_self, Bool.xor_false]

end Sys2Proof.Machine
end
